-- ==== Sys2Proof/Word.lean ====
section
/-! DEFINITION. The unit of the hardware: every chip register and every transferred unit is one byte of 8 bits (00_scope.md R6, R7). -/
namespace Sys2Proof

/-- A byte, 8 bits, bit 0 the least significant (R7). -/
abbrev Byte := BitVec 8

end Sys2Proof
end

