-- ==== Sys2Proof/Config.lean ====
section
/-! DEFINITION. The model arguments of 00_scope.md R6 and the values the spec leaves free. -/
namespace Sys2Proof

/-- The bit order handed to the transport; the engine never reads it (10_state.md R14). -/
inductive BitOrder where
  | msbFirst
  | lsbFirst
deriving DecidableEq, Repr

/-- The clock mode handed to the transport; the engine never reads it (10_state.md R14). -/
inductive SpiMode where
  | mode0
  | mode1
  | mode2
  | mode3
deriving DecidableEq, Repr

/-- The parameters that R6 marks "model argument", other than the construction inputs. They are data, so that a
statement about every state is a statement about every value of them. The defaults are the spec's (R6; log 10). -/
structure Params where
  /-- `DUMMY_BYTE`, sent in the data phase of a read (20_memory.md R37). -/
  dummyByte : Byte := 0x00
  /-- `RESET_NDATA`, how many data bytes RESET sends; only 10 and 11 are allowed (40_lifecycle.md R88). -/
  resetNdata : Nat := 10
  /-- `MODE_INPUT` (41_pin_ops.md R104). -/
  modeInput : Byte := 0
  /-- `MODE_OUTPUT` (41_pin_ops.md R104). -/
  modeOutput : Byte := 1
  /-- `MODE_INPUT_PULLUP` (41_pin_ops.md R104). -/
  modeInputPullup : Byte := 2
  /-- `HARDEN_RMW` (20_memory.md R48). -/
  hardenRmw : Bool := false
  /-- `BIT_ORDER`. PRESUMED by the spec itself from general knowledge (log 10). -/
  bitOrder : BitOrder := .msbFirst
  /-- `SPI_MODE`. PRESUMED by the spec itself from general knowledge (log 10). -/
  spiMode : SpiMode := .mode0
deriving DecidableEq, Repr

/-- The free byte number `n`: a "draw" of R9, a value the environment supplies and no rule constrains (20_memory.md
R53, R57; log 17). Nothing in Lean can evaluate it. -/
opaque Config.draw : Nat → Byte

/-- What a chip's address pointer holds after a data byte at address 0xFF: 93_implementation_defined.md U5 forbids
assuming that it wraps to 0x00 (log 18). Nothing in Lean can evaluate it. -/
opaque Config.pointerPastTop : Byte

end Sys2Proof
end

