-- ==== Sys2Proof/Machine/Operands.lean ====
section
/-! DEFINITION. Operand forms and the engine's whole arithmetic: 8-bit and bitwise (43_primitives.md R135). -/
namespace Sys2Proof.Machine

/-! ### Register addresses (30_encoding.md R67) -/

/-- IODIR, chip polarity 1 = input (10_state.md R20). -/
def regIODIR : Byte := 0x00
/-- IOCON, holding HAEN in bit 3 (R21). -/
def regIOCON : Byte := 0x05
/-- GPPU, pull-up enables (R22). -/
def regGPPU : Byte := 0x06
/-- GPIO, the live input state (R23). -/
def regGPIO : Byte := 0x09
/-- OLAT, the output latch (R24). -/
def regOLAT : Byte := 0x0A
/-- `HAEN_MASK`, the HAEN bit of IOCON (00_scope.md R6). -/
def haenMask : Byte := 0x08

/-! ### The opcode byte -/

/-- The write-opcode of a device address: only its low two bits are used (30_encoding.md R61). -/
def opcodeOf (deviceAddr : Byte) : Byte := 0x40 ||| ((deviceAddr &&& 0x3) <<< 1)

/-- The read-opcode: the write-opcode with bit 0 set (20_memory.md R39). -/
def readOpcode (opcode : Byte) : Byte := opcode ||| 0x01

/-- The opcode byte `01000aaw` of the wire rows (R60). -/
def wireOpcode (aa : BitVec 2) (read : Bool) : Byte :=
  0b01000#5 ++ aa ++ BitVec.ofBool read

/-- The fixed prefix of an opcode byte: bits 7 to 3 are `01000` (R60, 20_memory.md R45). -/
def isWireOpcode (b : Byte) : Bool := b.extractLsb' 3 5 == 0b01000#5

/-! ### Pins, states and modes -/

/-- The pin guard (41_pin_ops.md R100). -/
def pinOk (pin : Byte) : Bool := decide (pin.toNat ≤ 7)

/-- A state operand: false when it is 0x00, true for every other value (30_encoding.md R72). -/
def stateOf (b : Byte) : Bool := b != 0

/-- `mask(pin)` (R105). -/
def mask (pin : Byte) : Byte := (1 : Byte) <<< pin.toNat

/-- `set_bit(r, p)` (R105). -/
def setBit (r pin : Byte) : Byte := r ||| mask pin

/-- `clr_bit(r, p)` (R105). -/
def clrBit (r pin : Byte) : Byte := r &&& ~~~(mask pin)

/-- `put_bit(r, p, s)` (R105). -/
def putBit (r pin : Byte) (s : Bool) : Byte := if s then setBit r pin else clrBit r pin

/-- `get_bit(r, p)`, 0x00 or 0x01 (R105; the result encoding of a Boolean, 30_encoding.md R74). -/
def getBit (r pin : Byte) : Byte := (r >>> pin.toNat) &&& 1

/-- `inv(b)`, the polarity conversion of a direction byte (42_bulk_ops.md R121). -/
def inv (b : Byte) : Byte := ~~~b

/-- The mode guard: is the operand one of the three mode codes (41_pin_ops.md R104)? -/
def modeOk (p : Params) (mode : Byte) : Bool :=
  mode == p.modeInput || mode == p.modeOutput || mode == p.modeInputPullup

/-- Does the mode make the pin an output (R103)? -/
def modeIsOutput (p : Params) (mode : Byte) : Bool := mode == p.modeOutput

/-- Does the mode enable the pull-up (R103)? -/
def modeIsPullup (p : Params) (mode : Byte) : Bool := mode == p.modeInputPullup

/-! ### The data of RESET -/

/-- The data byte RESET sends for one register address: `d(a)` of 40_lifecycle.md R88. -/
def resetByte (haen : Bool) (a : Nat) : Byte :=
  if a = 0 then 0xFF else if a = 5 then (if haen then 0x08 else 0x00) else 0x00

/-- `reset_data()` (R88): the data bytes for addresses 0 to `n - 1`. -/
def resetBytes (haen : Bool) (n : Nat) : List Byte := (List.range n).map (resetByte haen)

/-! ### The configuration -/

/-- The parameters a model may be instantiated with (60_exceptions.md R147): three distinct mode codes, and 10 or 11
data bytes for RESET. -/
def paramsOk (p : Params) : Bool :=
  p.modeInput != p.modeOutput && p.modeInput != p.modeInputPullup && p.modeOutput != p.modeInputPullup &&
    (p.resetNdata == 10 || p.resetNdata == 11)

end Sys2Proof.Machine
end

