-- ==== Sys2Proof/Syntax.lean ====
section
/-! DEFINITION. One constructor per row of spec/opcode_table.json. -/
namespace Sys2Proof

/-- The instructions. The thirteen operations carry both operand fields `a` and `b` of the command word
(30_encoding.md R71), the ignored ones too, so that decoding loses no bit; the four wire rows carry the fields of
their frame. -/
inductive Instr where
  /-- BEGIN, code 0x0; both fields ignored (40_lifecycle.md R86). -/
  | begin (a b : Byte)
  /-- RESET, code 0x1; both fields ignored (R87). -/
  | reset (a b : Byte)
  /-- READPIN, code 0x2; field `b` ignored (41_pin_ops.md R101). -/
  | readpin (pin b : Byte)
  /-- WRITEPIN, code 0x3 (R102). -/
  | writepin (pin state : Byte)
  /-- SETPINMODE, code 0x4 (R103). -/
  | setpinmode (pin mode : Byte)
  /-- SETOUTPUTSTATES, code 0x5; field `b` ignored (42_bulk_ops.md R115). -/
  | setoutputstates (byte b : Byte)
  /-- GETOUTPUTSTATES, code 0x6; both fields ignored (R116). -/
  | getoutputstates (a b : Byte)
  /-- SETPINMODES, code 0x7; field `b` ignored (R117). -/
  | setpinmodes (byte b : Byte)
  /-- GETPINMODES, code 0x8; both fields ignored (R118). -/
  | getpinmodes (a b : Byte)
  /-- ENABLEPULLUPS, code 0x9; field `b` ignored (R119). -/
  | enablepullups (byte b : Byte)
  /-- GETENABLEDPULLUPS, code 0xA; both fields ignored (R120). -/
  | getenabledpullups (a b : Byte)
  /-- WRITEREGISTER, code 0xB (43_primitives.md R130). -/
  | writeregister (address data : Byte)
  /-- READREGISTER, code 0xC; field `b` ignored (R131). -/
  | readregister (address b : Byte)
  /-- The reserved code 0xD (30_encoding.md R73). -/
  | reservedD (a b : Byte)
  /-- The reserved code 0xE (R73). -/
  | reservedE (a b : Byte)
  /-- The reserved code 0xF (R73). -/
  | reservedF (a b : Byte)
  /-- OPCODE_BYTE, one byte `01000aaw` on the wire (R60). -/
  | opcodeByte (aa : BitVec 2) (read : Bool)
  /-- WRITE_FRAME, `01000aa0 rr dd` on the wire (R63). -/
  | writeFrame (aa : BitVec 2) (address data : Byte)
  /-- READ_FRAME, `01000aa1 rr uu` on the wire (R64). -/
  | readFrame (aa : BitVec 2) (address dummy : Byte)
  /-- RESET_BURST_FRAME, `01000aa0 00` and the `ndata` data bytes of R88, `haen` choosing the byte for IOCON (R65). -/
  | resetBurstFrame (aa : BitVec 2) (haen : Bool) (ndata : Nat)
deriving DecidableEq, Repr

end Sys2Proof
end

