-- ==== Sys2Proof/WellFormed.lean ====
section
/-! DEFINITION. Which instructions the encodings can express. -/
namespace Sys2Proof

/-- Every field but one has exactly the width of its encoding, so every value of it is well formed: a pin above 7 and
an unrecognised mode are ordinary operands (30_encoding.md R75). The one check is the number of data bytes of the
RESET burst, 10 or 11 (40_lifecycle.md R88). -/
def Instr.wellFormed : Instr → Bool
  | .begin _ _ => true
  | .reset _ _ => true
  | .readpin _ _ => true
  | .writepin _ _ => true
  | .setpinmode _ _ => true
  | .setoutputstates _ _ => true
  | .getoutputstates _ _ => true
  | .setpinmodes _ _ => true
  | .getpinmodes _ _ => true
  | .enablepullups _ _ => true
  | .getenabledpullups _ _ => true
  | .writeregister _ _ => true
  | .readregister _ _ => true
  | .reservedD _ _ => true
  | .reservedE _ _ => true
  | .reservedF _ _ => true
  | .opcodeByte _ _ => true
  | .writeFrame _ _ _ => true
  | .readFrame _ _ _ => true
  | .resetBurstFrame _ _ ndata => ndata == 10 || ndata == 11

end Sys2Proof
end

