-- ==== Sys2Proof/Decode.lean ====
section
/-! DEFINITION. The decoder, total on any bytes and rejecting by name, and after it the encoder.
A port carries bytes. A 20-bit command word (30_encoding.md R71) is three bytes, the most significant first, its four
top bits 0 (log 1); a frame is its own bytes in the order they are sent (R63 to R65). The first byte tells them apart:
`0000cccc` for a command, `01000aaw` for a frame. -/
namespace Sys2Proof
open Sys2Proof.Machine

/-- Why bytes are no instruction. -/
inductive DecodeError where
  /-- No row of the table has this many bytes. -/
  | badLength
  /-- The first byte is neither that of a command word nor an opcode byte of R60. -/
  | badPrefix
  /-- More than three bytes that are not the burst of RESET (R65, R88): the engine emits no other burst. -/
  | badBurst
deriving DecidableEq, Repr

/-- The operation a command code names (30_encoding.md R70, R73). -/
def decodeCommand (code : BitVec 4) (a b : Byte) : Instr :=
  match code.toNat with
  | 0x0 => .begin a b
  | 0x1 => .reset a b
  | 0x2 => .readpin a b
  | 0x3 => .writepin a b
  | 0x4 => .setpinmode a b
  | 0x5 => .setoutputstates a b
  | 0x6 => .getoutputstates a b
  | 0x7 => .setpinmodes a b
  | 0x8 => .getpinmodes a b
  | 0x9 => .enablepullups a b
  | 0xA => .getenabledpullups a b
  | 0xB => .writeregister a b
  | 0xC => .readregister a b
  | 0xD => .reservedD a b
  | 0xE => .reservedE a b
  | _ => .reservedF a b

/-- The device address bits of an opcode byte (R60). -/
def opcodeAddress (b : Byte) : BitVec 2 := b.extractLsb' 1 2

/-- One byte: OPCODE_BYTE (R60). -/
def decodeOne (b0 : Byte) : Except DecodeError Instr :=
  if isWireOpcode b0 then .ok (.opcodeByte (opcodeAddress b0) (b0.getLsbD 0)) else .error .badPrefix

/-- Three bytes: a command word, WRITE_FRAME or READ_FRAME. -/
def decodeThree (b0 b1 b2 : Byte) : Except DecodeError Instr :=
  if b0.extractLsb' 4 4 = 0#4 then .ok (decodeCommand (b0.extractLsb' 0 4) b1 b2)
  else if isWireOpcode b0 then
    if b0.getLsbD 0 then .ok (.readFrame (opcodeAddress b0) b1 b2) else .ok (.writeFrame (opcodeAddress b0) b1 b2)
  else .error .badPrefix

/-- A start address and at least two data bytes: the burst of RESET (R65, R88). -/
def decodeBurst (b0 address : Byte) (data : List Byte) : Except DecodeError Instr :=
  let haen := data[5]? == some 0x08
  if isWireOpcode b0 && !b0.getLsbD 0 then
    if address = 0x00 ∧ (data.length = 10 ∨ data.length = 11) ∧ data = resetBytes haen data.length then
      .ok (.resetBurstFrame (opcodeAddress b0) haen data.length)
    else .error .badBurst
  else .error .badPrefix

/-- The instruction that the bytes of a port stand for. -/
def decode (bytes : List Byte) : Except DecodeError Instr :=
  match bytes with
  | [b0] => decodeOne b0
  | [b0, b1, b2] => decodeThree b0 b1 b2
  | b0 :: b1 :: data => if data.isEmpty then .error .badLength else decodeBurst b0 b1 data
  | [] => .error .badLength

/-- A command word as bytes: `0000cccc`, `aaaaaaaa`, `bbbbbbbb` (R71; log 1). -/
def encodeCommand (code : BitVec 4) (a b : Byte) : List Byte := [0#4 ++ code, a, b]

/-- The bytes of an instruction. -/
def encode : Instr → List Byte
  | .begin a b => encodeCommand 0x0 a b
  | .reset a b => encodeCommand 0x1 a b
  | .readpin pin b => encodeCommand 0x2 pin b
  | .writepin pin state => encodeCommand 0x3 pin state
  | .setpinmode pin mode => encodeCommand 0x4 pin mode
  | .setoutputstates byte b => encodeCommand 0x5 byte b
  | .getoutputstates a b => encodeCommand 0x6 a b
  | .setpinmodes byte b => encodeCommand 0x7 byte b
  | .getpinmodes a b => encodeCommand 0x8 a b
  | .enablepullups byte b => encodeCommand 0x9 byte b
  | .getenabledpullups a b => encodeCommand 0xA a b
  | .writeregister address data => encodeCommand 0xB address data
  | .readregister address b => encodeCommand 0xC address b
  | .reservedD a b => encodeCommand 0xD a b
  | .reservedE a b => encodeCommand 0xE a b
  | .reservedF a b => encodeCommand 0xF a b
  | .opcodeByte aa read => [wireOpcode aa read]
  | .writeFrame aa address data => [wireOpcode aa false, address, data]
  | .readFrame aa address dummy => [wireOpcode aa true, address, dummy]
  | .resetBurstFrame aa haen ndata => wireOpcode aa false :: 0x00 :: resetBytes haen ndata

/-- The low `8 * n` bits of `w` as `n` bytes, the most significant first: how the table numbers a row's bits (the
opcode byte of a frame, or the code of a command word, stands in the highest bits). -/
def bytesOfNat : Nat → Nat → List Byte
  | 0, _ => []
  | n + 1, w => BitVec.ofNat 8 (w / 2 ^ (8 * n)) :: bytesOfNat n w

/-- The bytes of an instruction word of `nbits` bits, as the hardware is given them. -/
def bytesOfWord (nbits w : Nat) : List Byte := bytesOfNat ((nbits + 7) / 8) w

/-- The instruction the decoder reads from a word of the opcode table. -/
def decodeTableWord (nbits w : Nat) : Option Instr :=
  match decode (bytesOfWord nbits w) with
  | .ok i => some i
  | .error _ => none

end Sys2Proof
end

