-- ==== Sys2Proof/Machine/Engine.lean ====
section
/-! DEFINITION. The engine's five state elements (10_state.md R10) and its construction (40_lifecycle.md R85). -/
namespace Sys2Proof.Machine

/-- `bus_cfg` (10_state.md R14): handed to TXN_BEGIN, never interpreted. -/
structure BusCfg where
  clockHz : BitVec 32
  bitOrder : BitOrder
  spiMode : SpiMode
deriving DecidableEq, Repr

/-- The engine's whole state (R10 to R15). -/
structure Engine where
  /-- The write-opcode (R11). -/
  opcode : Byte
  /-- Hardware addressing was requested at construction (R12). -/
  haen : Bool
  /-- The chip-select line identifier (R13). -/
  csPin : Byte
  busCfg : BusCfg
  /-- BEGIN has been issued (R15); the engine itself does not test it. -/
  begun : Bool
deriving DecidableEq, Repr

/-- The construction inputs (40_lifecycle.md R85), with the spec's defaults. `cs_pin` and `device_addr` have none
(70_reset_and_hazards.md R165); their 0 is a DESIGN CHOICE (log 11). -/
structure ConstructInputs where
  csPin : Byte := 0x00
  deviceAddr : Byte := 0x00
  haen : Bool := false
  clockHz : BitVec 32 := 1000000#32
deriving DecidableEq, Repr

/-- CONSTRUCT (40_lifecycle.md R85). -/
def Engine.construct (p : Params) (ci : ConstructInputs) : Engine :=
  { opcode := opcodeOf ci.deviceAddr
    haen := ci.haen
    csPin := ci.csPin
    busCfg := { clockHz := ci.clockHz, bitOrder := p.bitOrder, spiMode := p.spiMode }
    begun := false }

end Sys2Proof.Machine
end

