-- ==== Sys2Proof/Machine/State.lean ====
section
/-! DEFINITION. The machine's state, its outcomes, and the state after reset. -/
namespace Sys2Proof.Machine

/-- A chip's register file: address and byte, addresses rising, nothing listed that holds its power-on value
(`Memory.wf`). -/
abbrev Memory := List Host.Cell

/-- Where a chip stands inside a frame (20_memory.md R51). -/
inductive FramePos where
  /-- Outside a frame. -/
  | idle
  /-- In a frame, the opcode byte still to come. -/
  | opcode
  /-- Selected, the address byte still to come. -/
  | address (read : Bool)
  /-- Selected and addressed: data bytes. -/
  | data (read : Bool)
  /-- Not selected: the rest of the frame is ignored. -/
  | ignored
deriving DecidableEq, Repr

/-- A reference chip (20_memory.md R50) on a chip-select line. -/
structure Chip where
  /-- The chip-select line it hangs on (R45). -/
  line : Byte
  /-- Its address pins, `CHIP_HWADDR`. -/
  hwaddr : BitVec 2
  /-- `reg`, addresses 0x00 to 0x0A but 0x09 (R50, R54). -/
  regs : Memory
  /-- The address pointer. -/
  ptr : Byte
  /-- The external pin levels, which the environment may change between transactions. -/
  pins : Byte
  frame : FramePos
deriving DecidableEq, Repr

/-- What the engine hands to the transport (20_memory.md R30). Only the byte sent is recorded of an XFER: that is what
R30 calls observable (log 26). -/
inductive Event where
  | pinOutput (pin : Byte)
  | txnBegin (cfg : BusCfg)
  | csAssert (pin : Byte)
  | xfer (tx : Byte)
  | csDeassert (pin : Byte)
  | txnEnd
deriving DecidableEq, Repr

/-- The transport's side of the interface that 10_state.md R27 lists. -/
structure Bus where
  /-- The chip-select line has been made an output (20_memory.md R31). -/
  csOutput : Bool
  /-- The chip-select line that is asserted, if one is (R33). -/
  asserted : Option Byte
  /-- The transaction lock (R32, R35). -/
  txnOpen : Bool
deriving DecidableEq, Repr

/-- The phase of 10_state.md R16, the index of the operation's next transaction, together with the byte a read-modify-
write holds between its read and its write (R27). -/
inductive Phase where
  /-- Phase 0: the first read, or the only transaction. -/
  | read0
  /-- Phase 1: the write of the first pair. -/
  | write0 (held : Byte)
  /-- Phase 2: the read of the second pair. -/
  | read1
  /-- Phase 3: the write of the second pair. -/
  | write1 (held : Byte)
deriving DecidableEq, Repr

/-- An operation in flight: `(op, phase)` of R16. -/
structure Flight where
  op : Instr
  phase : Phase
deriving DecidableEq, Repr

/-- A caller of the engine (60_exceptions.md R151), or another driver of the transport (20_memory.md R58; log 2). -/
structure Caller where
  /-- The command words it has still to issue, as port bytes, in program order. -/
  pending : List (List Byte)
  flight : Option Flight
  /-- The result of its last completed operation (30_encoding.md R74). -/
  result : Option Byte
  /-- How many of its operations have completed: all that the host learns of an operation without a result (R74). -/
  completed : Nat
deriving DecidableEq, Repr

/-- What happens next: an agent's turn (log 4). -/
inductive Turn where
  /-- A caller takes a step (60_exceptions.md R151). -/
  | caller (k : Nat)
  /-- The environment sets a chip's pin levels (20_memory.md R50). -/
  | pins (chip : Nat) (levels : Byte)
  /-- A chip is power-cycled (R55). -/
  | power (chip : Nat)
  /-- The engine is constructed anew: its hardware reset (70_reset_and_hazards.md R165). -/
  | construct (inputs : ConstructInputs)
deriving DecidableEq, Repr

/-- The machine. -/
structure State where
  params : Params
  engine : Engine
  bus : Bus
  chips : List Chip
  callers : List Caller
  /-- The caller whose turn it is. -/
  active : Nat
  /-- The turns still to come, in order. -/
  schedule : List Turn
  /-- The events handed to the transport so far, oldest first. -/
  trace : List Event
  /-- The index of the next free byte. -/
  draws : Nat
deriving DecidableEq, Repr

/-- The engine has no fault: it raises no exception and every operation completes (60_exceptions.md R140). -/
inductive Fault where
deriving DecidableEq, Repr

/-- The situations the spec gives no meaning (60_exceptions.md R147). All are safe: the model stops where an engine
would go on. -/
inductive Refusal where
  /-- Raised by `exec`'s arm of an instruction without a meaning; there is none in this model. Safe. -/
  | notModelled (mnemonic : String)
  /-- Raised by every operation but BEGIN while `begun` is false (R147, `refuse(not_begun)`). Safe. -/
  | notBegun
  /-- Raised by the command codes 0xD to 0xF (R73, R147, `refuse(reserved_code)`). Safe. -/
  | reservedCode
  /-- Raised by every step under parameters that R147 excludes (`refuse(bad_configuration)`). Safe. -/
  | badConfiguration
  /-- Raised by the step when the bytes at a port are no row of the table (log 9). Safe. -/
  | undecodable (e : DecodeError)
deriving DecidableEq, Repr

/-- A chip right after power-on (20_memory.md R55): every register at its power-on value, which lists nothing. The
pointer and the pin levels, which R55 leaves unspecified, are given by the caller. -/
def Chip.atPowerOn (line : Byte) (hwaddr : BitVec 2) (ptr pins : Byte) : Chip :=
  { line := line, hwaddr := hwaddr, regs := [], ptr := ptr, pins := pins, frame := .idle }

/-- A caller with nothing to do. -/
def Caller.idle : Caller := { pending := [], flight := none, result := none, completed := 0 }

/-- The transport before BEGIN: the line is not driven, taken as deasserted, and no transaction is open
(70_reset_and_hazards.md R165). -/
def Bus.released : Bus := { csOutput := false, asserted := none, txnOpen := false }

/-- Right after reset: the engine constructed from the default inputs (70_reset_and_hazards.md R165, 10_state.md R28),
the spec's default parameters, one idle caller (DESIGN CHOICE, log 24), one chip at its power-on values on the
engine's line (DESIGN CHOICE, log 12), and nothing scheduled (log 4). -/
def State.reset : State :=
  { params := {}
    engine := Engine.construct {} {}
    bus := Bus.released
    chips := [Chip.atPowerOn 0x00 0 0x00 0x00]
    callers := [Caller.idle]
    active := 0
    schedule := []
    trace := []
    draws := 0 }

end Sys2Proof.Machine
end

