-- ==== Sys2Proof/Machine/Memory.lean ====
section
/-! DEFINITION. A chip's register file as a list in one canonical form. -/
namespace Sys2Proof.Machine

/-- What an unlisted address reads as: its power-on value (20_memory.md R55), 0xFF for IODIR and 0x00 elsewhere. -/
def Memory.powerOn (a : Nat) : Byte := if a = 0x00 then 0xFF else 0x00

/-- Read one register. -/
def Memory.read : Memory → Nat → Byte
  | [], a => Memory.powerOn a
  | (b, v) :: m, a => if b = a then v else Memory.read m a

/-- Write one register, keeping the canonical form: a value equal to what an unlisted address reads as is not listed. -/
def Memory.write : Memory → Nat → Byte → Memory
  | [], a, v => if v = Memory.powerOn a then [] else [(a, v)]
  | (b, w) :: m, a, v =>
    if a < b then (if v = Memory.powerOn a then (b, w) :: m else (a, v) :: (b, w) :: m)
    else if a = b then (if v = Memory.powerOn a then m else (a, v) :: m)
    else (b, w) :: Memory.write m a v

/-- The canonical form: addresses strictly rising, and no entry equal to what an unlisted address reads as. -/
def Memory.wf : Memory → Bool
  | [] => true
  | (a, v) :: m => v != Memory.powerOn a && m.all (fun c => decide (a < c.1)) && Memory.wf m

/-- The addresses that are plain storage: 0x00 to 0x08 and 0x0A (20_memory.md R52). -/
def isStorage (a : Nat) : Bool := decide (a ≤ 0x0A) && a != 0x09

/-- Only storage addresses are listed. -/
def Memory.inSpace (m : Memory) : Bool := m.all fun c => isStorage c.1

end Sys2Proof.Machine
end

