-- ==== Sys2Proof/Machine/Flags.lean ====
section
/-! DEFINITION. The one-bit fields the spec gives. The engine has no condition codes or status flags, and no operation
computes one (10_state.md R17, 40_lifecycle.md); what stands here are the fields of the chip's registers that R21 and
R26 name. -/
namespace Sys2Proof.Machine

/-- The chip's own HAEN bit: bit 3 of IOCON (10_state.md R21). It may differ from the engine's `haen` (R27). -/
def Chip.haenBit (c : Chip) : Bool := (c.regs.read 0x05).getLsbD 3

/-- The modes of R26. `pulledOutput`, an output with its pull-up enabled, is the combination the spec gives no name. -/
inductive PinMode where
  | output
  | pulledOutput
  | input
  | inputPullup
deriving DecidableEq, Repr

/-- The mode of pin `p`, derived from IODIR and GPPU (10_state.md R26). -/
def Chip.pinMode (c : Chip) (p : Nat) : PinMode :=
  match (c.regs.read 0x00).getLsbD p, (c.regs.read 0x06).getLsbD p with
  | false, false => .output
  | false, true => .pulledOutput
  | true, false => .input
  | true, true => .inputPullup

/-- The state of pin `p` that WRITEPIN sets: its bit of OLAT (R26). -/
def Chip.drivenState (c : Chip) (p : Nat) : Bool := (c.regs.read 0x0A).getLsbD p

end Sys2Proof.Machine
end

