-- ==== Sys2Proof/Machine/Chip.lean ====
section
/-! DEFINITION. The reference chip of 20_memory.md R50 to R55, byte by byte. It stands for the far side of the
transport only as R56 says; a state without chips is the unconstrained oracle (log 14). -/
namespace Sys2Proof.Machine

/-- Is the chip selected by the opcode byte? The prefix must match and, when the chip's HAEN bit is set, the address
bits must equal its address pins (20_memory.md R45, R51). -/
def Chip.selectedBy (c : Chip) (b0 : Byte) : Bool :=
  isWireOpcode b0 && (!c.haenBit || opcodeAddress b0 == c.hwaddr)

/-- Does a frame with this opcode byte on this line reach the chip (R45)? -/
def Chip.reachedBy (line b0 : Byte) (c : Chip) : Bool := c.line == line && c.selectedBy b0

/-- Where a data byte written at address `p` is stored: a write to GPIO lands in OLAT (R54), and addresses above 0x0A
store nothing (R52; log 16). -/
def storeAddress (p : Byte) : Option Nat :=
  if p = 0x09 then some 0x0A else if p.toNat ≤ 0x0A then some p.toNat else none

/-- What the chip answers for address `p`: a stored byte, the pin levels for GPIO, or nothing the spec states, which
is a draw (R53, R54). -/
def Chip.readByte (c : Chip) (p : Byte) : Option Byte :=
  if p = 0x09 then some c.pins else if p.toNat ≤ 0x0A then some (c.regs.read p.toNat) else none

/-- The pointer after a data byte (R52, R53). After address 0xFF it is a free value (U5; log 18). -/
def nextPointer (p : Byte) : Byte := if p = 0xFF then Config.pointerPastTop else p + 1

/-- A data byte of a write (R52). -/
def Chip.writeData (c : Chip) (v : Byte) : Chip :=
  { c with
    regs := match storeAddress c.ptr with
      | some a => c.regs.write a v
      | none => c.regs
    ptr := nextPointer c.ptr }

/-- CS_ASSERT starts a frame at the chips on that line; any other chip sees no frame (R45, R51; log 31). -/
def Chip.csAssert (line : Byte) (c : Chip) : Chip :=
  { c with frame := if c.line = line then .opcode else .idle }

/-- What the chip puts on the bus while a byte is sent: something only in the data phase of a read (R53). -/
def Chip.answer (c : Chip) : Option Byte :=
  match c.frame with
  | .data true => c.readByte c.ptr
  | _ => none

/-- The chip takes in one byte (R51 to R53). -/
def Chip.accept (c : Chip) (tx : Byte) : Chip :=
  match c.frame with
  | .idle => c
  | .opcode => { c with frame := if c.selectedBy tx then .address (tx.getLsbD 0) else .ignored }
  | .address read => { c with ptr := tx, frame := .data read }
  | .data false => c.writeData tx
  | .data true => { c with ptr := nextPointer c.ptr }
  | .ignored => c

/-- CS_DEASSERT ends the frame (R51). -/
def Chip.csDeassert (c : Chip) : Chip := { c with frame := .idle }

/-- A whole frame at the chip. -/
def Chip.receive (line : Byte) (bytes : List Byte) (c : Chip) : Chip :=
  (bytes.foldl Chip.accept (c.csAssert line)).csDeassert

/-- A power cycle (R55): the registers take their power-on values. `ptr` and `pins` are what the environment makes of
the two values R55 leaves open. -/
def Chip.powerCycle (ptr pins : Byte) (c : Chip) : Chip := Chip.atPowerOn c.line c.hwaddr ptr pins

end Sys2Proof.Machine
end

