-- ==== Sys2Proof/Machine/Ops.lean ====
section
/-! DEFINITION. The named operations: transport events, the access primitives, the end of an operation, the model-level
refusals of 60_exceptions.md R147, and what a turn of the schedule does.
There is no operation that takes an exception and none that returns from one: the engine has no trap mechanism, saves
nothing and has no handler (R140, R145, R146). -/
namespace Sys2Proof.Machine

/-! ### Transport events (20_memory.md R30 to R35) -/

/-- Hand an event to the transport. -/
def State.emit (e : Event) (s : State) : State := { s with trace := s.trace ++ [e] }

/-- PIN_OUTPUT with the engine's chip-select line (R31). -/
def State.pinOutput (s : State) : State :=
  { s.emit (.pinOutput s.engine.csPin) with bus.csOutput := true }

/-- TXN_BEGIN with the engine's bus configuration (R32). -/
def State.txnBegin (s : State) : State :=
  { s.emit (.txnBegin s.engine.busCfg) with bus.txnOpen := true }

/-- CS_ASSERT (R33): a frame starts at the chips on the line. -/
def State.csAssert (s : State) : State :=
  { s.emit (.csAssert s.engine.csPin) with
    bus.asserted := some s.engine.csPin
    chips := s.chips.map (Chip.csAssert s.engine.csPin) }

/-- The byte received while one is sent (R34): the answer of the one chip that gives one. With no chip answering it is
a draw (R57), and with several the spec says nothing, so it is a draw too (log 13). -/
def State.rxByte (s : State) : Byte :=
  match s.chips.filterMap Chip.answer with
  | [b] => b
  | _ => Config.draw s.draws

/-- XFER (R34): send `tx`, and return the byte received. -/
def State.xfer (tx : Byte) (s : State) : Byte × State :=
  (s.rxByte, { s.emit (.xfer tx) with chips := s.chips.map (fun c => c.accept tx), draws := s.draws + 1 })

/-- CS_DEASSERT (R33): the frame ends. -/
def State.csDeassert (s : State) : State :=
  { s.emit (.csDeassert s.engine.csPin) with
    bus.asserted := none
    chips := s.chips.map Chip.csDeassert }

/-- TXN_END (R35). -/
def State.txnEnd (s : State) : State := { s.emit .txnEnd with bus.txnOpen := false }

/-- The XFER events of a frame in order. The byte returned is the one received with the last (`rx` if there is none);
every other is discarded (R34). -/
def State.xferAll (bytes : List Byte) (rx : Byte) (s : State) : Byte × State :=
  match bytes with
  | [] => (rx, s)
  | tx :: rest => State.xferAll rest (s.xfer tx).1 (s.xfer tx).2

/-- One transaction: TXN_BEGIN, CS_ASSERT, the bytes, CS_DEASSERT, TXN_END (R36 to R38). -/
def State.transact (bytes : List Byte) (s : State) : Byte × State :=
  let p := s.txnBegin.csAssert.xferAll bytes 0
  (p.1, p.2.csDeassert.txnEnd)

/-! ### The access primitives -/

/-- `MemWrite(addr, 1, v)` (20_memory.md R36). -/
def State.memWrite (addr v : Byte) (s : State) : State := (s.transact [s.engine.opcode, addr, v]).2

/-- `MemRead(addr, 1)` (R37). -/
def State.memRead (addr : Byte) (s : State) : Byte × State :=
  s.transact [readOpcode s.engine.opcode, addr, s.params.dummyByte]

/-- `MemWriteSeq(addr, data)` (R38). -/
def State.memWriteSeq (addr : Byte) (data : List Byte) (s : State) : State :=
  (s.transact (s.engine.opcode :: addr :: data)).2

/-- `reset_data()` (40_lifecycle.md R88). -/
def State.resetData (s : State) : List Byte := resetBytes s.engine.haen s.params.resetNdata

/-! ### Callers -/

/-- The phase of the active caller's operation (10_state.md R16); phase 0 when it has none in flight. -/
def State.phase (s : State) : Phase :=
  match s.callers[s.active]? with
  | some c => match c.flight with
    | some f => f.phase
    | none => .read0
  | none => .read0

/-- The active caller's operation completes with this result (30_encoding.md R71, R74). -/
def State.complete (result : Option Byte) (s : State) : State :=
  { s with
    callers := s.callers.modify s.active fun c =>
      { c with flight := none, result := result, completed := c.completed + 1 } }

/-- The active caller's operation goes on at `phase` in a later step (60_exceptions.md R151). -/
def State.goOn (op : Instr) (phase : Phase) (s : State) : State :=
  { s with callers := s.callers.modify s.active fun c => { c with flight := some { op := op, phase := phase } } }

/-- A step of one transaction and the end of the operation. -/
def State.finish (result : Option Byte) (s : State) : Host.Outcome State Fault Refusal := .next (s.complete result)

/-! ### Refusals (60_exceptions.md R147) -/

/-- An operation other than BEGIN: refused under excluded parameters, and while `begun` is false. -/
def State.whenBegun (s : State) (k : Host.Outcome State Fault Refusal) : Host.Outcome State Fault Refusal :=
  if paramsOk s.params then (if s.engine.begun then k else .refused .notBegun) else .refused .badConfiguration

/-- BEGIN: refused under excluded parameters only. -/
def State.whenConfigured (s : State) (k : Host.Outcome State Fault Refusal) : Host.Outcome State Fault Refusal :=
  if paramsOk s.params then k else .refused .badConfiguration

/-! ### Shared shapes of the operations -/

/-- One write and nothing else: the bulk writes and WRITEREGISTER. -/
def State.writeOnly (addr v : Byte) (s : State) : Host.Outcome State Fault Refusal :=
  s.whenBegun ((s.memWrite addr v).finish none)

/-- One read whose byte, seen through `view`, is the result: READPIN, the bulk reads and READREGISTER. -/
def State.readOnly (addr : Byte) (view : Byte → Byte) (s : State) : Host.Outcome State Fault Refusal :=
  s.whenBegun ((s.memRead addr).2.finish (some (view (s.memRead addr).1)))

/-- An operation whose guard fails: no transport event, nothing changes, and it completes at once
(41_pin_ops.md R100, R104). -/
def State.ignored (result : Option Byte) (s : State) : Host.Outcome State Fault Refusal :=
  s.whenBegun (s.finish result)

/-- The read of a read-then-write pair; `next` is the phase that holds the byte read. -/
def State.pairRead (op : Instr) (addr : Byte) (next : Byte → Phase) (s : State) : Host.Outcome State Fault Refusal :=
  s.whenBegun (.next ((s.memRead addr).2.goOn op (next (s.memRead addr).1)))

/-! ### Turns of the schedule -/

/-- Is the instruction an operation of the engine, rather than a frame of some driver of the transport? -/
def isOperation : Instr → Bool
  | .opcodeByte _ _ => false
  | .writeFrame _ _ _ => false
  | .readFrame _ _ _ => false
  | .resetBurstFrame _ _ _ => false
  | .begin _ _ => true
  | .reset _ _ => true
  | .readpin _ _ => true
  | .writepin _ _ => true
  | .setpinmode _ _ => true
  | .setoutputstates _ _ => true
  | .getoutputstates _ _ => true
  | .setpinmodes _ _ => true
  | .getpinmodes _ _ => true
  | .enablepullups _ _ => true
  | .getenabledpullups _ _ => true
  | .writeregister _ _ => true
  | .readregister _ _ => true
  | .reservedD _ _ => true
  | .reservedE _ _ => true
  | .reservedF _ _ => true

/-- Is the phase between the read and the write of a pair? -/
def Phase.holds : Phase → Bool
  | .read0 => false
  | .write0 _ => true
  | .read1 => false
  | .write1 _ => true

/-- Has the caller completed the read of a pair and not its write? -/
def Caller.holdsPair (c : Caller) : Bool :=
  match c.flight with
  | some f => f.phase.holds
  | none => false

/-- Has caller `j` completed the read of a pair and not its write? -/
def State.holdsPair (s : State) (j : Nat) : Bool :=
  match s.callers[j]? with
  | some c => c.holdsPair
  | none => false

/-- With HARDEN_RMW, a caller of the engine may not step while another is inside a pair; other drivers of the
transport are not held back (20_memory.md R48, 60_exceptions.md R151). -/
def State.blocked (s : State) (k : Nat) (i : Instr) : Bool :=
  s.params.hardenRmw && isOperation i &&
    (List.range s.callers.length).any fun j => j != k && s.holdsPair j

/-- What a caller's turn finds to do. -/
inductive Fetch where
  /-- Nothing: no such caller, nothing pending, or it must wait. -/
  | idle
  /-- The bytes at the port are no row of the table. -/
  | bad (e : DecodeError)
  /-- An instruction to run, and the state it runs in. -/
  | run (i : Instr) (s : State)

/-- The caller's next command word is accepted: it leaves the port and its operation is in flight at phase 0
(30_encoding.md R71, 10_state.md R16). -/
def State.accept (k : Nat) (i : Instr) (s : State) : State :=
  { s with
    callers := s.callers.modify k fun c =>
      { c with pending := c.pending.tail, flight := some { op := i, phase := .read0 } } }

/-- A caller goes on with its operation in flight, or takes its next command word (60_exceptions.md R151). -/
def State.fetch (k : Nat) (s : State) : Fetch :=
  match s.callers[k]? with
  | none => .idle
  | some c =>
    match c.flight with
    | some f => if s.blocked k f.op then .idle else .run f.op s
    | none =>
      match c.pending with
      | [] => .idle
      | w :: _ =>
        match decode w with
        | .error e => .bad e
        | .ok i => if s.blocked k i then .idle else .run i (s.accept k i)

/-- The environment sets the pin levels of a chip (20_memory.md R50). -/
def State.setPins (chip : Nat) (levels : Byte) (s : State) : State :=
  { s with chips := s.chips.modify chip fun c => { c with pins := levels } }

/-- A chip is power-cycled (R55); its pointer and pin levels are draws (log 19). The engine is not touched
(70_reset_and_hazards.md R166). -/
def State.powerCycle (chip : Nat) (s : State) : State :=
  { s with
    chips := s.chips.modify chip (Chip.powerCycle (Config.draw s.draws) (Config.draw (s.draws + 1)))
    draws := s.draws + 2 }

/-- CONSTRUCT, the engine's hardware reset (40_lifecycle.md R85, 70_reset_and_hazards.md R165): the engine takes its
inputs, no operation is in flight, no transaction is open, the line is not driven; no event, and the chips are not
touched (R166; log 21). -/
def State.construct (ci : ConstructInputs) (s : State) : State :=
  { s with
    engine := Engine.construct s.params ci
    bus := Bus.released
    callers := s.callers.map fun c => { c with flight := none } }

/-- Put bytes at the port of caller 0, give it the next turn, and clear what would keep it from taking them: its own
operation in flight and, under HARDEN_RMW, another caller's pair (log 5). -/
def State.present (bytes : List Byte) (s : State) : State :=
  { s with
    schedule := .caller 0 :: s.schedule
    callers := match s.callers with
      | [] => [{ Caller.idle with pending := [bytes] }]
      | c :: cs => { c with flight := none, pending := bytes :: c.pending } ::
          cs.map fun d => if s.params.hardenRmw && d.holdsPair then { d with flight := none } else d }

end Sys2Proof.Machine
end

