-- ==== Sys2Proof/Machine/BulkOps.lean ====
section
/-! DEFINITION. The six whole-byte operations (42_bulk_ops.md): one transaction each, no guard. -/
namespace Sys2Proof.Machine

/-- SETOUTPUTSTATES (R115). -/
def execSetoutputstates (byte _b : Byte) (s : State) : Host.Outcome State Fault Refusal :=
  s.writeOnly regOLAT byte

/-- GETOUTPUTSTATES (R116): the latch, not the pin levels. -/
def execGetoutputstates (_a _b : Byte) (s : State) : Host.Outcome State Fault Refusal :=
  s.readOnly regOLAT id

/-- SETPINMODES (R117): caller polarity in, chip polarity to IODIR. -/
def execSetpinmodes (byte _b : Byte) (s : State) : Host.Outcome State Fault Refusal :=
  s.writeOnly regIODIR (inv byte)

/-- GETPINMODES (R118): IODIR in caller polarity. -/
def execGetpinmodes (_a _b : Byte) (s : State) : Host.Outcome State Fault Refusal :=
  s.readOnly regIODIR inv

/-- ENABLEPULLUPS (R119): the whole byte, so a 0 bit disables a pull-up. -/
def execEnablepullups (byte _b : Byte) (s : State) : Host.Outcome State Fault Refusal :=
  s.writeOnly regGPPU byte

/-- GETENABLEDPULLUPS (R120). -/
def execGetenabledpullups (_a _b : Byte) (s : State) : Host.Outcome State Fault Refusal :=
  s.readOnly regGPPU id

end Sys2Proof.Machine
end

