-- ==== Sys2Proof/Machine/Lifecycle.lean ====
section
/-! DEFINITION. BEGIN and RESET (40_lifecycle.md). -/
namespace Sys2Proof.Machine

/-- BEGIN (R86): PIN_OUTPUT, the HAEN bit written to IOCON when it was requested (exactly 0x08, no read first; log 28),
`begun` set. Issued again it does the same again. -/
def execBegin (_a _b : Byte) (s : State) : Host.Outcome State Fault Refusal :=
  let started := if s.engine.haen then s.pinOutput.memWrite regIOCON haenMask else s.pinOutput
  s.whenConfigured (State.finish none { started with engine.begun := true })

/-- RESET (R87): one burst of `reset_data()` from address 0x00. -/
def execReset (_a _b : Byte) (s : State) : Host.Outcome State Fault Refusal :=
  s.whenBegun ((s.memWriteSeq 0x00 s.resetData).finish none)

end Sys2Proof.Machine
end

