-- ==== Sys2Proof/Machine/PinOps.lean ====
section
/-! DEFINITION. READPIN, WRITEPIN and SETPINMODE (41_pin_ops.md). A composite operation does one transaction a step, the
one its phase names (60_exceptions.md R151; log 3). -/
namespace Sys2Proof.Machine

/-- READPIN (R101): bit `pin` of GPIO, never of OLAT; 0x00 for a pin out of range. -/
def execReadpin (pin _b : Byte) (s : State) : Host.Outcome State Fault Refusal :=
  if pinOk pin then s.readOnly regGPIO (fun r => getBit r pin) else s.ignored (some 0x00)

/-- WRITEPIN (R102): read OLAT, then write it back with bit `pin` put to the state. -/
def execWritepin (pin state : Byte) (s : State) : Host.Outcome State Fault Refusal :=
  if pinOk pin then
    match s.phase with
    | .read0 => s.pairRead (.writepin pin state) regOLAT .write0
    | .write0 r => s.writeOnly regOLAT (putBit r pin (stateOf state))
    | .read1 => s.pairRead (.writepin pin state) regOLAT .write0
    | .write1 r => s.writeOnly regOLAT (putBit r pin (stateOf state))
  else s.ignored none

/-- SETPINMODE (R103): the direction pair on IODIR, in chip polarity, then the pull-up pair on GPPU; both writes are
always issued. -/
def execSetpinmode (pin mode : Byte) (s : State) : Host.Outcome State Fault Refusal :=
  if pinOk pin && modeOk s.params mode then
    match s.phase with
    | .read0 => s.pairRead (.setpinmode pin mode) regIODIR .write0
    | .write0 r =>
      s.whenBegun (.next ((s.memWrite regIODIR (putBit r pin (!modeIsOutput s.params mode))).goOn
        (.setpinmode pin mode) .read1))
    | .read1 => s.pairRead (.setpinmode pin mode) regGPPU .write1
    | .write1 q => s.writeOnly regGPPU (putBit q pin (modeIsPullup s.params mode))
  else s.ignored none

end Sys2Proof.Machine
end

