-- ==== Sys2Proof/Machine/Primitives.lean ====
section
/-! DEFINITION. WRITEREGISTER and READREGISTER (43_primitives.md): any address, no polarity inversion. -/
namespace Sys2Proof.Machine

/-- WRITEREGISTER (R130). -/
def execWriteregister (address data : Byte) (s : State) : Host.Outcome State Fault Refusal :=
  s.writeOnly address data

/-- READREGISTER (R131). -/
def execReadregister (address _b : Byte) (s : State) : Host.Outcome State Fault Refusal :=
  s.readOnly address id

end Sys2Proof.Machine
end

