-- ==== Sys2Proof/Machine/Reserved.lean ====
section
/-! DEFINITION. The reserved command codes (30_encoding.md R73): refused, never a no-op. -/
namespace Sys2Proof.Machine

/-- Code 0xD (R73). -/
def execReservedD (_a _b : Byte) (_s : State) : Host.Outcome State Fault Refusal := .refused .reservedCode

/-- Code 0xE (R73). -/
def execReservedE (_a _b : Byte) (_s : State) : Host.Outcome State Fault Refusal := .refused .reservedCode

/-- Code 0xF (R73). -/
def execReservedF (_a _b : Byte) (_s : State) : Host.Outcome State Fault Refusal := .refused .reservedCode

end Sys2Proof.Machine
end

