-- ==== Sys2Proof/Machine/Wire.lean ====
section
/-! DEFINITION. The wire rows of the opcode table, as transactions of a driver of the transport on the engine's line
(log 2). They are no operations of the engine, so `begun` does not bear on them. -/
namespace Sys2Proof.Machine

/-- OPCODE_BYTE (30_encoding.md R60) as a frame of one byte: it changes no register (20_memory.md R51). -/
def execOpcodeByte (aa : BitVec 2) (read : Bool) (s : State) : Host.Outcome State Fault Refusal :=
  (s.transact [wireOpcode aa read]).2.finish none

/-- WRITE_FRAME (R63). -/
def execWriteFrame (aa : BitVec 2) (address data : Byte) (s : State) : Host.Outcome State Fault Refusal :=
  (s.transact [wireOpcode aa false, address, data]).2.finish none

/-- READ_FRAME (R64): the byte received in the data phase is the result. -/
def execReadFrame (aa : BitVec 2) (address dummy : Byte) (s : State) : Host.Outcome State Fault Refusal :=
  let p := s.transact [wireOpcode aa true, address, dummy]
  p.2.finish (some p.1)

/-- RESET_BURST_FRAME (R65, 40_lifecycle.md R88). -/
def execResetBurstFrame (aa : BitVec 2) (haen : Bool) (ndata : Nat) (s : State) : Host.Outcome State Fault Refusal :=
  (s.transact (wireOpcode aa false :: 0x00 :: resetBytes haen ndata)).2.finish none

end Sys2Proof.Machine
end

