-- ==== Sys2Proof/Machine/Dispatch.lean ====
section
/-! DEFINITION. One arm per row of the opcode table. -/
namespace Sys2Proof.Machine

/-- What an instruction does for the active caller, in one step (60_exceptions.md R151). -/
def exec (i : Instr) (s : State) : Host.Outcome State Fault Refusal :=
  match i with
  | .begin a b => Sys2Proof.Machine.execBegin a b s
  | .reset a b => Sys2Proof.Machine.execReset a b s
  | .readpin pin b => Sys2Proof.Machine.execReadpin pin b s
  | .writepin pin state => Sys2Proof.Machine.execWritepin pin state s
  | .setpinmode pin mode => Sys2Proof.Machine.execSetpinmode pin mode s
  | .setoutputstates byte b => Sys2Proof.Machine.execSetoutputstates byte b s
  | .getoutputstates a b => Sys2Proof.Machine.execGetoutputstates a b s
  | .setpinmodes byte b => Sys2Proof.Machine.execSetpinmodes byte b s
  | .getpinmodes a b => Sys2Proof.Machine.execGetpinmodes a b s
  | .enablepullups byte b => Sys2Proof.Machine.execEnablepullups byte b s
  | .getenabledpullups a b => Sys2Proof.Machine.execGetenabledpullups a b s
  | .writeregister address data => Sys2Proof.Machine.execWriteregister address data s
  | .readregister address b => Sys2Proof.Machine.execReadregister address b s
  | .reservedD a b => Sys2Proof.Machine.execReservedD a b s
  | .reservedE a b => Sys2Proof.Machine.execReservedE a b s
  | .reservedF a b => Sys2Proof.Machine.execReservedF a b s
  | .opcodeByte aa read => Sys2Proof.Machine.execOpcodeByte aa read s
  | .writeFrame aa address data => Sys2Proof.Machine.execWriteFrame aa address data s
  | .readFrame aa address dummy => Sys2Proof.Machine.execReadFrame aa address dummy s
  | .resetBurstFrame aa haen ndata => Sys2Proof.Machine.execResetBurstFrame aa haen ndata s

end Sys2Proof.Machine
end

