-- ==== Sys2Proof/Machine/Step.lean ====
section
/-! DEFINITION. One step of the machine: one turn of the schedule. -/
namespace Sys2Proof.Machine

/-- Take the next turn. A caller's turn runs `exec` for one transaction (60_exceptions.md R151); a caller with nothing
to do lets its turn pass; with no turn left nobody moves (70_reset_and_hazards.md R168; log 4). Parameters that R147
excludes are refused. -/
def step (s : State) : Host.Outcome State Fault Refusal :=
  if paramsOk s.params then
    match s.schedule with
    | [] => .next s
    | .pins j levels :: rest => .next (State.setPins j levels { s with schedule := rest })
    | .power j :: rest => .next (State.powerCycle j { s with schedule := rest })
    | .construct ci :: rest => .next (State.construct ci { s with schedule := rest })
    | .caller k :: rest =>
      match State.fetch k { s with schedule := rest, active := k } with
      | .idle => .next { s with schedule := rest, active := k }
      | .bad e => .refused (.undecodable e)
      | .run i s' => exec i s'
  else .refused .badConfiguration

/-- The instruction of a table word, where the next step fetches it. -/
def State.withFetchWord (s : State) (nbits w : Nat) : State := s.present (bytesOfWord nbits w)

end Sys2Proof.Machine
end

