-- ==== Sys2Proof/Safety.lean ====
section
/-! DEFINITION. The terms the statements use: the event lists of 20_memory.md R36 to R38 written out, what one
transaction may change, the bracket discipline of a trace, and the invariants. -/
namespace Sys2Proof.Safety
open Sys2Proof.Machine

/-! ### Events -/

/-- The seven events of `MemWrite(addr, 1, v)` (R36). -/
def writeEvents (x : Engine) (addr v : Byte) : List Event :=
  [.txnBegin x.busCfg, .csAssert x.csPin, .xfer x.opcode, .xfer addr, .xfer v, .csDeassert x.csPin, .txnEnd]

/-- The seven events of `MemRead(addr, 1)` (R37), `dummy` being DUMMY_BYTE. -/
def readEvents (x : Engine) (dummy addr : Byte) : List Event :=
  [.txnBegin x.busCfg, .csAssert x.csPin, .xfer (x.opcode ||| 1), .xfer addr, .xfer dummy, .csDeassert x.csPin, .txnEnd]

/-- The events of a frame of any bytes, bracketed as every transaction is (R33, R38). -/
def frameEvents (x : Engine) (bytes : List Byte) : List Event :=
  .txnBegin x.busCfg :: .csAssert x.csPin :: (bytes.map .xfer ++ [.csDeassert x.csPin, .txnEnd])

/-- Where a trace stands: outside a transaction, in one before its frame, in the frame, or in one after its frame. -/
inductive TracePos where
  | outside
  | opened
  | framed (pin : Byte)
  | closing
deriving DecidableEq, Repr

/-- The bracket discipline (20_memory.md R31 to R33, R35): PIN_OUTPUT only outside a transaction, CS_ASSERT only after
TXN_BEGIN, only XFER inside a frame, the same line released, TXN_END after it; no nesting. -/
def TracePos.after (p : TracePos) (e : Event) : Option TracePos :=
  match p with
  | .outside => match e with
    | .pinOutput _ => some .outside
    | .txnBegin _ => some .opened
    | _ => none
  | .opened => match e with
    | .csAssert pin => some (.framed pin)
    | _ => none
  | .framed pin => match e with
    | .xfer _ => some (.framed pin)
    | .csDeassert pin' => if pin = pin' then some .closing else none
    | _ => none
  | .closing => match e with
    | .txnEnd => some .outside
    | _ => none

/-- Where a trace leads from a position, if it keeps the discipline. -/
def TracePos.run (p : TracePos) (es : List Event) : Option TracePos :=
  match es with
  | [] => some p
  | e :: es => match p.after e with
    | some q => TracePos.run q es
    | none => none

/-- The trace is a sequence of whole transactions and PIN_OUTPUT events: none is left open (R168). -/
def Bracketed (es : List Event) : Prop := TracePos.run .outside es = some .outside

/-! ### Conditions -/

/-- When an operation other than BEGIN has a meaning (60_exceptions.md R147). -/
structure Ready (s : State) : Prop where
  params : paramsOk s.params = true
  begun : s.engine.begun = true

/-- The instruction is one of the reserved command codes (30_encoding.md R73). -/
def isReserved : Instr → Bool
  | .reservedD _ _ => true
  | .reservedE _ _ => true
  | .reservedF _ _ => true
  | _ => false

/-- The instruction is BEGIN. -/
def isBegin : Instr → Bool
  | .begin _ _ => true
  | _ => false

/-- The instruction is RESET. -/
def isReset : Instr → Bool
  | .reset _ _ => true
  | _ => false

/-! ### What one transaction changes -/

/-- The chip is as it was but for its place in a frame, which no transaction leaves open. -/
structure Untouched (c c' : Chip) : Prop where
  line : c'.line = c.line
  hwaddr : c'.hwaddr = c.hwaddr
  pins : c'.pins = c.pins
  ptr : c'.ptr = c.ptr
  regs : ∀ a, c'.regs.read a = c.regs.read a

/-- The chip took one data byte `v` at address `addr` (20_memory.md R52, R54): the byte is stored where
`storeAddress addr` says, if anywhere, and every other address reads as before. -/
structure Written (addr v : Byte) (c c' : Chip) : Prop where
  line : c'.line = c.line
  hwaddr : c'.hwaddr = c.hwaddr
  pins : c'.pins = c.pins
  ptr : c'.ptr = nextPointer addr
  stored : ∀ a, storeAddress addr = some a → c'.regs.read a = v
  others : ∀ a, storeAddress addr ≠ some a → c'.regs.read a = c.regs.read a

/-- The chip answered a read of address `addr` (R53): only its pointer moved. -/
structure Answered (addr : Byte) (c c' : Chip) : Prop where
  line : c'.line = c.line
  hwaddr : c'.hwaddr = c.hwaddr
  pins : c'.pins = c.pins
  ptr : c'.ptr = nextPointer addr
  regs : ∀ a, c'.regs.read a = c.regs.read a

/-- The chip took the whole burst of RESET (40_lifecycle.md R87, 20_memory.md R52, R54): its storage registers hold the
data of R88, OLAT the 0x00 sent for GPIO or for itself, every other address reads as before, and the pointer stands one
past the last data byte. -/
structure ResetDone (haen : Bool) (ndata : Nat) (c c' : Chip) : Prop where
  line : c'.line = c.line
  hwaddr : c'.hwaddr = c.hwaddr
  pins : c'.pins = c.pins
  ptr : c'.ptr = BitVec.ofNat 8 ndata
  iodir : c'.regs.read 0x00 = 0xFF
  iocon : c'.regs.read 0x05 = if haen then 0x08 else 0x00
  zero : ∀ a, a ∈ [0x01, 0x02, 0x03, 0x04, 0x06, 0x07, 0x08, 0x0A] → c'.regs.read a = 0x00
  others : ∀ a, isStorage a = false → c'.regs.read a = c.regs.read a

/-- The data bytes of RESET, written out (40_lifecycle.md R88). -/
def resetList (haen : Bool) (ndata : Nat) : List Byte :=
  [0xFF, 0x00, 0x00, 0x00, 0x00, if haen then 0x08 else 0x00, 0x00, 0x00, 0x00, 0x00] ++
    (if ndata = 11 then [0x00] else [])

/-- Chip by chip: those that a frame with opcode byte `op` reaches are changed as `P` says, the others not at all. -/
def ChipsBecome (op : Byte) (P : Chip → Chip → Prop) (s t : State) : Prop :=
  t.chips.length = s.chips.length ∧
    ∀ (k : Nat) (c c' : Chip), s.chips[k]? = some c → t.chips[k]? = some c' →
      (c.reachedBy s.engine.csPin op = true → P c c') ∧ (c.reachedBy s.engine.csPin op = false → Untouched c c')

/-- Only the active caller's record changes, as `f` says. -/
structure CallerBecomes (f : Caller → Caller) (s t : State) : Prop where
  active : ∀ c, s.callers[s.active]? = some c → t.callers[s.active]? = some (f c)
  others : ∀ k, k ≠ s.active → t.callers[k]? = s.callers[k]?
  count : t.callers.length = s.callers.length

/-- The caller's operation has completed with this result. -/
def completedWith (r : Option Byte) (c : Caller) : Caller :=
  { c with flight := none, result := r, completed := c.completed + 1 }

/-- The caller's operation goes on at this phase. -/
def goingOn (op : Instr) (p : Phase) (c : Caller) : Caller := { c with flight := some { op := op, phase := p } }

/-- What no operation changes. -/
structure SameSetting (s t : State) : Prop where
  params : t.params = s.params
  schedule : t.schedule = s.schedule
  active : t.active = s.active

/-- From `s` to `t` exactly one frame of these bytes was sent: its events were emitted, the chips it reached changed as
`P` says, the transaction is closed, and nothing else changed but the active caller's record. -/
structure OneFrame (bytes : List Byte) (P : Chip → Chip → Prop) (s t : State) : Prop where
  setting : SameSetting s t
  engine : t.engine = s.engine
  trace : t.trace = s.trace ++ frameEvents s.engine bytes
  chips : ChipsBecome (bytes.headD 0) P s t
  csOutput : t.bus.csOutput = s.bus.csOutput
  asserted : t.bus.asserted = none
  txnOpen : t.bus.txnOpen = false

/-- One `MemWrite(addr, 1, v)` and nothing else (R36). -/
structure OneWrite (addr v : Byte) (s t : State) : Prop where
  setting : SameSetting s t
  engine : t.engine = s.engine
  trace : t.trace = s.trace ++ writeEvents s.engine addr v
  chips : ChipsBecome s.engine.opcode (Written addr v) s t
  csOutput : t.bus.csOutput = s.bus.csOutput
  asserted : t.bus.asserted = none
  txnOpen : t.bus.txnOpen = false

/-- One `MemRead(addr, 1)` and nothing else (R37). -/
structure OneRead (addr : Byte) (s t : State) : Prop where
  setting : SameSetting s t
  engine : t.engine = s.engine
  trace : t.trace = s.trace ++ readEvents s.engine s.params.dummyByte addr
  chips : ChipsBecome (s.engine.opcode ||| 1) (Answered addr) s t
  csOutput : t.bus.csOutput = s.bus.csOutput
  asserted : t.bus.asserted = none
  txnOpen : t.bus.txnOpen = false

/-- The operation was ignored: no event, no chip touched, only the caller's operation completes (41_pin_ops.md R100). -/
structure Nothing (s t : State) : Prop where
  setting : SameSetting s t
  engine : t.engine = s.engine
  trace : t.trace = s.trace
  chips : t.chips = s.chips
  bus : t.bus = s.bus
  draws : t.draws = s.draws

/-- The byte a read with opcode byte `op` receives in its data phase: the answer of the one chip it reaches, and a draw
when it reaches none, or several, or an address the chip does not answer (20_memory.md R53, R57; log 13, 17). -/
def received (s : State) (op addr : Byte) : Byte :=
  match s.chips.filter (Chip.reachedBy s.engine.csPin op) with
  | [c] => (c.readByte addr).getD (Config.draw (s.draws + 2))
  | _ => Config.draw (s.draws + 2)

/-- The engine's own read of an address. -/
def ownRead (s : State) (addr : Byte) : Byte := received s (s.engine.opcode ||| 1) addr

/-- The engine's frames reach exactly one chip of the state, number `k`, however many there are. -/
structure SoleChip (s : State) (k : Nat) (c : Chip) : Prop where
  there : s.chips[k]? = some c
  reached : c.reachedBy s.engine.csPin s.engine.opcode = true
  alone : ∀ (j : Nat) (d : Chip), j ≠ k → s.chips[j]? = some d → d.reachedBy s.engine.csPin s.engine.opcode = false

/-- From `s` to `t` no chip but number `k` changed, and there are as many chips. -/
structure OnlyChip (k : Nat) (s t : State) : Prop where
  count : t.chips.length = s.chips.length
  others : ∀ (j : Nat) (d d' : Chip), j ≠ k → s.chips[j]? = some d → t.chips[j]? = some d' → Untouched d d'

/-- The index of a phase: which transaction of its operation comes next (10_state.md R16). -/
def phaseIndex : Phase → Nat
  | .read0 => 0
  | .write0 _ => 1
  | .read1 => 2
  | .write1 _ => 3

/-- What of a caller does not depend on any byte received: its words, how many operations it has completed, which
operation it has in flight at which phase, and whether it has a result. -/
def callerShape (c : Caller) : List (List Byte) × Nat × Option (Instr × Nat) × Bool :=
  (c.pending, c.completed, c.flight.map fun f => (f.op, phaseIndex f.phase), c.result.isSome)

/-- What a caller's next turn would run: its operation in flight, or its next command word (60_exceptions.md R151). -/
def nextInstr (c : Caller) : Option Instr :=
  match c.flight with
  | some f => some f.op
  | none => match c.pending with
    | [] => none
    | w :: _ => match decode w with
      | .ok i => some i
      | .error _ => none

/-! ### Runs of one operation -/

/-- Is the active caller's operation still in flight? -/
def inFlight (s : State) : Bool :=
  match s.callers[s.active]? with
  | some c => c.flight.isSome
  | none => false

/-- The operation run by one caller with nobody in between: `exec` once, and again while it is in flight, at most
`fuel + 1` times. -/
def runAlone (fuel : Nat) (i : Instr) (s : State) : Host.Outcome State Fault Refusal :=
  match fuel with
  | 0 => exec i s
  | fuel + 1 =>
    match exec i s with
    | .next t => if inFlight t then runAlone fuel i t else .next t
    | .fault f => .fault f
    | .refused r => .refused r

/-- `n` steps of the machine, stopping where one does not answer a next state. -/
def runSteps (n : Nat) (s : State) : Host.Outcome State Fault Refusal :=
  match n with
  | 0 => .next s
  | n + 1 =>
    match step s with
    | .next t => runSteps n t
    | .fault f => .fault f
    | .refused r => .refused r

/-! ### Invariants -/

/-- The legal values of the stored opcode (10_state.md R11): bits 7 to 3 are `01000` and bit 0 is 0. -/
def legalOpcode (b : Byte) : Bool := b.extractLsb' 3 5 == 0b01000#5 && !b.getLsbD 0

/-- A chip between transactions: its register file in canonical form, only storage addresses listed, outside a frame. -/
def chipInv (c : Chip) : Bool := c.regs.wf && c.regs.inSpace && c.frame == .idle

/-- The phases an operation in flight can stand in between two steps (10_state.md R16): WRITEPIN between its two
transactions, SETPINMODE between its four, and no other operation at all. -/
def flightInv (p : Params) (f : Flight) : Bool :=
  match f.op, f.phase with
  | .writepin pin _, .write0 _ => pinOk pin
  | .setpinmode pin mode, .write0 _ => pinOk pin && modeOk p mode
  | .setpinmode pin mode, .read1 => pinOk pin && modeOk p mode
  | .setpinmode pin mode, .write1 _ => pinOk pin && modeOk p mode
  | _, _ => false

/-- What every access rests on: the stored opcode is legal and every chip is between transactions. A state an instruction
runs in has it too (`Inv` says in addition where operations in flight stand between steps). -/
structure Sound (s : State) : Prop where
  opcode : legalOpcode s.engine.opcode = true
  chips : ∀ c ∈ s.chips, chipInv c = true

/-- What holds of the machine between any two steps. -/
structure Inv (s : State) : Prop where
  sound : Sound s
  asserted : s.bus.asserted = none
  txnOpen : s.bus.txnOpen = false
  trace : Bracketed s.trace
  flights : ∀ c ∈ s.callers, ∀ f, c.flight = some f → flightInv s.params f = true

/-- With HARDEN_RMW at most one caller is inside a read-then-write pair (20_memory.md R48). -/
def OneHolder (s : State) : Prop :=
  s.params.hardenRmw = true → ∀ j k, s.holdsPair j = true → s.holdsPair k = true → j = k

end Sys2Proof.Safety
end

