-- ==== Sys2Proof/Certificates/Slice0/Obligations.lean ====
section
/-! DEFINITION. The statements for the provers. Their terms are those of Sys2Proof/Safety.lean. -/
open Sys2Proof Sys2Proof.Machine Sys2Proof.Safety

/-! ### Encodings -/

/-- Decoding an encoded instruction gives it back (30_encoding.md R60, R63 to R65, R70 to R73; the byte form of a command
word is the model's, log 1). -/
def Obligations.DecodeOfEncode : Prop :=
  ∀ i : Instr, i.wellFormed = true → decode (encode i) = .ok i

/-- Bytes that decode have one reading and lose no bit: the instruction is well formed and encodes to them. -/
def Obligations.EncodeOfDecode : Prop :=
  ∀ (bytes : List Byte) (i : Instr), decode bytes = .ok i → i.wellFormed = true ∧ encode i = bytes

/-- Every word of 95_test_vectors.md 2.7, its decode corner cases among them, and one of each wire row decode as the spec
says. (That a command word stands on a port as three bytes is the model's choice, log 1.) -/
def Obligations.SpecWordsDecode : Prop :=
  decodeTableWord 24 0x00000 = some (.begin 0 0) ∧
  decodeTableWord 24 0x10000 = some (.reset 0 0) ∧
  decodeTableWord 24 0x20500 = some (.readpin 5 0) ∧
  decodeTableWord 24 0x30301 = some (.writepin 3 1) ∧
  decodeTableWord 24 0x40201 = some (.setpinmode 2 1) ∧
  decodeTableWord 24 0x5A500 = some (.setoutputstates 0xA5 0) ∧
  decodeTableWord 24 0x60000 = some (.getoutputstates 0 0) ∧
  decodeTableWord 24 0x70F00 = some (.setpinmodes 0x0F 0) ∧
  decodeTableWord 24 0x80000 = some (.getpinmodes 0 0) ∧
  decodeTableWord 24 0x98100 = some (.enablepullups 0x81 0) ∧
  decodeTableWord 24 0xA0000 = some (.getenabledpullups 0 0) ∧
  decodeTableWord 24 0xB01F0 = some (.writeregister 0x01 0xF0) ∧
  decodeTableWord 24 0xC0500 = some (.readregister 0x05 0) ∧
  decodeTableWord 24 0x6ABCD = some (.getoutputstates 0xAB 0xCD) ∧
  decodeTableWord 24 0x2FF00 = some (.readpin 0xFF 0) ∧
  decodeTableWord 24 0x40203 = some (.setpinmode 2 3) ∧
  decodeTableWord 24 0xD0000 = some (.reservedD 0 0) ∧
  decodeTableWord 24 0xE1234 = some (.reservedE 0x12 0x34) ∧
  decodeTableWord 24 0xFFFFF = some (.reservedF 0xFF 0xFF) ∧
  decodeTableWord 8 0x47 = some (.opcodeByte 3 true) ∧
  decodeTableWord 24 0x460A81 = some (.writeFrame 3 0x0A 0x81) ∧
  decodeTableWord 24 0x470900 = some (.readFrame 3 0x09 0x00) ∧
  decodeTableWord 96 0x4600FF000000000800000000 = some (.resetBurstFrame 3 true 10)

/-- The opcode bytes of every device address: `0x40` with the low two bits of the address at bits 2 and 1, one more for
a read (30_encoding.md R61, R62). -/
def Obligations.OpcodeOfDeviceAddress : Prop :=
  ∀ d : Byte, (opcodeOf d).toNat = 0x40 + 2 * (d.toNat % 4) ∧ (readOpcode (opcodeOf d)).toNat = 0x41 + 2 * (d.toNat % 4)

/-- The laws of 41_pin_ops.md R105: `put_bit` sets bit `p` to `s` and passes the other seven, `get_bit` is 0 or 1 as bit
`p` is, `set_bit` and `clr_bit` are idempotent, and `inv` is its own inverse and exchanges them. -/
def Obligations.BitArithmetic : Prop :=
  ∀ (r pin : Byte) (s : Bool), pinOk pin = true →
    (∀ j, j < 8 → (putBit r pin s).getLsbD j = if j = pin.toNat then s else r.getLsbD j) ∧
    getBit r pin = (if r.getLsbD pin.toNat then 1 else 0) ∧
    setBit (setBit r pin) pin = setBit r pin ∧ clrBit (clrBit r pin) pin = clrBit r pin ∧
    inv (inv r) = r ∧ inv (setBit r pin) = clrBit (inv r) pin ∧ inv (clrBit r pin) = setBit (inv r) pin

/-! ### The access primitives -/

/-- `MemWrite` (20_memory.md R36): its seven events, the byte at every chip it reaches, and nothing else. -/
def Obligations.MemWriteIsOneTransaction : Prop :=
  ∀ (addr v : Byte) (s : State), Sound s →
    OneWrite addr v s (s.memWrite addr v) ∧ (s.memWrite addr v).callers = s.callers

/-- `MemRead` (20_memory.md R37): its seven events, the byte received in the third XFER, no register changed; when no chip
is reached the byte is a free value (R57). -/
def Obligations.MemReadIsOneTransaction : Prop :=
  ∀ (addr : Byte) (s : State),
    OneRead addr s (s.memRead addr).2 ∧ (s.memRead addr).2.callers = s.callers ∧
    (s.memRead addr).1 = ownRead s addr ∧
    (∀ k c b, SoleChip s k c → c.readByte addr = some b → (s.memRead addr).1 = b) ∧
    ((∀ c ∈ s.chips, c.reachedBy s.engine.csPin (s.engine.opcode ||| 1) = false) →
      ∃ n, (s.memRead addr).1 = Config.draw n)

/-- `MemWriteSeq` (20_memory.md R38, R52): one bracketed burst; at a chip it reaches the data bytes land in successive
addresses (here all below GPIO), every other address reads as before, and the pointer ends one past the last. -/
def Obligations.MemWriteSeqAutoIncrements : Prop :=
  ∀ (addr : Byte) (data : List Byte) (s : State), Sound s → addr.toNat + data.length ≤ 0x09 →
    let t := s.memWriteSeq addr data
    t.trace = s.trace ++ frameEvents s.engine (s.engine.opcode :: addr :: data) ∧
    t.engine = s.engine ∧ t.callers = s.callers ∧ SameSetting s t ∧
    ChipsBecome s.engine.opcode (fun c c' =>
      (∀ (i : Nat) (v : Byte), data[i]? = some v → c'.regs.read (addr.toNat + i) = v) ∧
      (∀ a, a < addr.toNat ∨ addr.toNat + data.length ≤ a → c'.regs.read a = c.regs.read a) ∧
      c'.ptr = addr + BitVec.ofNat 8 data.length ∧ c'.pins = c.pins ∧ c'.line = c.line ∧ c'.hwaddr = c.hwaddr) s t

/-! ### Device selection -/

/-- Device selection (20_memory.md R45, 95_test_vectors.md 2.8): a frame reaches a chip exactly when it is on its line,
has the prefix `01000`, and carries the chip's address when the chip's HAEN bit is set. -/
def Obligations.DeviceSelection : Prop :=
  ∀ (c : Chip) (line b0 : Byte), c.reachedBy line b0 = true ↔
    c.line = line ∧ 0x40 ≤ b0.toNat ∧ b0.toNat ≤ 0x47 ∧
      ((c.regs.read 0x05).getLsbD 3 = true → (b0.toNat / 2) % 4 = c.hwaddr.toNat)

/-- A frame changes no chip that it does not reach (20_memory.md R51, R57, 70_reset_and_hazards.md R174), chip by chip:
whatever operation is run and whatever becomes of the other chips, a chip that the engine's opcode does not reach is
untouched. -/
def Obligations.UnreachedChipsUntouched : Prop :=
  ∀ (i : Instr) (s t : State) (k : Nat) (c : Chip), isOperation i = true → exec i s = .next t →
    s.chips[k]? = some c → c.reachedBy s.engine.csPin s.engine.opcode = false →
    t.chips.length = s.chips.length ∧ ∃ c', t.chips[k]? = some c' ∧ Untouched c c'

/-- The engine's side does not depend on the chips (20_memory.md R56, R57, 60_exceptions.md R142): with any other chips,
or none, an instruction emits the same events and leaves the engine, the transport and every caller but the active one
in the same state; the active caller differs at most by a byte received, and not at all when every read receives the
same byte or when nothing was sent. -/
def Obligations.EngineSideIgnoresTheChips : Prop :=
  ∀ (i : Instr) (s t : State) (chips : List Chip) (draws : Nat), exec i s = .next t →
    ∃ u, exec i { s with chips := chips, draws := draws } = .next u ∧
      u.trace = t.trace ∧ u.engine = t.engine ∧ u.bus = t.bus ∧ SameSetting t u ∧
      u.callers.length = t.callers.length ∧ (∀ k, k ≠ s.active → u.callers[k]? = t.callers[k]?) ∧
      u.callers[s.active]?.map callerShape = t.callers[s.active]?.map callerShape ∧
      (t.trace = s.trace → u.callers = t.callers) ∧
      ((∀ op addr, received { s with chips := chips, draws := draws } op addr = received s op addr) →
        u.callers = t.callers)

/-! ### Construction and reset -/

/-- Construction (40_lifecycle.md R85, 70_reset_and_hazards.md R165, R166): the engine takes its inputs, the opcode is
built from the low two bits of the device address, `begun` is false; no event, no chip touched. That no operation stays
in flight and the words still pending stay is the model's (log 21). -/
def Obligations.ConstructionSetsTheEngine : Prop :=
  ∀ (s : State) (ci : ConstructInputs) (rest : List Turn), paramsOk s.params = true →
    s.schedule = .construct ci :: rest →
    ∃ t, step s = .next t ∧ t.schedule = rest ∧ t.active = s.active ∧
      t.engine.opcode.toNat = 0x40 + 2 * (ci.deviceAddr.toNat % 4) ∧ t.engine.haen = ci.haen ∧
      t.engine.csPin = ci.csPin ∧ t.engine.busCfg.clockHz = ci.clockHz ∧
      t.engine.busCfg.bitOrder = s.params.bitOrder ∧ t.engine.busCfg.spiMode = s.params.spiMode ∧
      t.engine.begun = false ∧ t.bus = Bus.released ∧ t.trace = s.trace ∧ t.chips = s.chips ∧ t.params = s.params ∧
      t.draws = s.draws ∧ t.callers = s.callers.map fun c => { c with flight := none }

/-- What reset leaves: the values of 10_state.md R28 and R165. The opcode 0x40 and the line 0 rest on the model's choice
of cs_pin and device_addr (log 11), the chip at its power-on values on the choice of log 12. -/
def Obligations.ResetLeaves : Prop :=
  State.reset.engine.opcode = 0x40 ∧ State.reset.engine.haen = false ∧ State.reset.engine.csPin = 0 ∧
  State.reset.engine.busCfg = { clockHz := 1000000#32, bitOrder := .msbFirst, spiMode := .mode0 } ∧
  State.reset.engine.begun = false ∧
  State.reset.bus = { csOutput := false, asserted := none, txnOpen := false } ∧
  State.reset.trace = [] ∧ (∀ c ∈ State.reset.callers, c.flight = none ∧ c.pending = []) ∧
  ∀ c ∈ State.reset.chips, c.regs.read 0x00 = 0xFF ∧ ∀ a, 0 < a → c.regs.read a = 0x00

/-- The invariants hold after reset. -/
def Obligations.ResetMeetsInvariant : Prop := Inv State.reset ∧ OneHolder State.reset

/-- Every step keeps the invariant: the opcode stays one of its four values (10_state.md R11), every register file stays
canonical, no transaction is ever left open and the trace stays bracketed (20_memory.md R32, R33,
70_reset_and_hazards.md R168), and only WRITEPIN and SETPINMODE are ever in flight between steps (10_state.md R16). -/
def Obligations.StepKeepsInvariant : Prop :=
  ∀ s t : State, Inv s → step s = .next t → Inv t

/-- With HARDEN_RMW every step keeps it so that at most one caller is inside a read-then-write pair (20_memory.md R48). -/
def Obligations.StepKeepsOneHolder : Prop :=
  ∀ s t : State, OneHolder s → step s = .next t → OneHolder t

/-- What construction fixed stays fixed (10_state.md R11 to R15): a step that is not a new construction changes neither
`opcode` nor `haen` nor `cs_pin` nor `bus_cfg`, and never clears `begun`; and parameters never change. -/
def Obligations.ConstructionIsForLife : Prop :=
  ∀ s t : State, (∀ ci rest, s.schedule ≠ .construct ci :: rest) → step s = .next t →
    t.engine.opcode = s.engine.opcode ∧ t.engine.haen = s.engine.haen ∧ t.engine.csPin = s.engine.csPin ∧
    t.engine.busCfg = s.engine.busCfg ∧ (s.engine.begun = true → t.engine.begun = true) ∧ t.params = s.params

/-- `begun` is set by BEGIN and by nothing else (10_state.md R15). -/
def Obligations.OnlyBeginSetsBegun : Prop :=
  ∀ (i : Instr) (s t : State), exec i s = .next t → t.engine.begun = (s.engine.begun || isBegin i)

/-- `opcode` (10_state.md R11): construction sets it to `0x40 | ((device_addr & 0x3) << 1)`, one of four values with bits
7 to 3 `01000`, the device address at bits 2 and 1 and bit 0 clear; no instruction writes it; and every transaction of
an operation reads it, its first byte being the opcode or the opcode with bit 0 set. -/
def Obligations.OpcodeIsFixedAtConstruction : Prop :=
  (∀ (p : Params) (ci : ConstructInputs),
    (Engine.construct p ci).opcode = 0x40 ||| ((ci.deviceAddr &&& 0x3) <<< 1) ∧
    (Engine.construct p ci).opcode ∈ [0x40, 0x42, 0x44, 0x46] ∧
    (Engine.construct p ci).opcode.extractLsb' 3 5 = 0b01000#5 ∧
    (Engine.construct p ci).opcode.extractLsb' 1 2 = ci.deviceAddr.extractLsb' 0 2 ∧
    (Engine.construct p ci).opcode.getLsbD 0 = false) ∧
  ∀ (i : Instr) (s t : State), exec i s = .next t → t.engine.opcode = s.engine.opcode ∧
    (isOperation i = true → ∃ new, t.trace = s.trace ++ new ∧
      (new = [] ∨ new = [.pinOutput s.engine.csPin] ∨
        ∃ b0 rest, (b0 = s.engine.opcode ∨ b0 = s.engine.opcode ||| 1) ∧
          (new = frameEvents s.engine (b0 :: rest) ∨
            new = .pinOutput s.engine.csPin :: frameEvents s.engine (b0 :: rest))))

/-- `haen` (10_state.md R12): construction sets it to what is asked for, off by default; no instruction changes it; BEGIN
and RESET read it, since their events depend on it, and no other instruction does; and it may differ from the HAEN bit of
a chip, as where WRITEREGISTER clears that bit in a chip that the engine reaches. -/
def Obligations.HaenIsWhatConstructionAskedFor : Prop :=
  (∀ (p : Params) (ci : ConstructInputs), (Engine.construct p ci).haen = ci.haen) ∧
  ({} : ConstructInputs).haen = false ∧
  (∀ (i : Instr) (s t : State), exec i s = .next t → t.engine.haen = s.engine.haen) ∧
  (∀ (i : Instr) (s t u : State), (isBegin i || isReset i) = true →
    exec i { s with engine.haen := true } = .next t → exec i { s with engine.haen := false } = .next u →
    t.trace ≠ u.trace) ∧
  (∀ (i : Instr) (s t : State) (h : Bool), (isBegin i || isReset i) = false → exec i s = .next t →
    exec i { s with engine.haen := h } = .next { t with engine.haen := h }) ∧
  ∃ (s t : State) (c c' : Chip), s.chips = [c] ∧ c.reachedBy s.engine.csPin s.engine.opcode = true ∧
    s.engine.haen = true ∧ c.haenBit = true ∧ exec (.writeregister 0x05 0x00) s = .next t ∧ t.chips = [c'] ∧
    t.engine.haen = true ∧ c'.haenBit = false

/-! ### Lifecycle operations -/

/-- BEGIN (40_lifecycle.md R86): PIN_OUTPUT first; without `haen` nothing else reaches the transport, with it one write of
0x08 to IOCON; `begun` is set. It needs no earlier BEGIN. (The byte 0x08 is 92_eei_decisions.md D8; log 28.) -/
def Obligations.BeginRuns : Prop :=
  ∀ (a b : Byte) (s : State), paramsOk s.params = true → Sound s →
    ∃ t, exec (.begin a b) s = .next t ∧ CallerBecomes (completedWith none) s t ∧ SameSetting s t ∧
      t.engine = { s.engine with begun := true } ∧ t.bus.csOutput = true ∧
      (s.engine.haen = false → t.trace = s.trace ++ [.pinOutput s.engine.csPin] ∧ t.chips = s.chips ∧
        t.bus.asserted = s.bus.asserted ∧ t.bus.txnOpen = s.bus.txnOpen) ∧
      (s.engine.haen = true →
        t.trace = s.trace ++ .pinOutput s.engine.csPin :: writeEvents s.engine 0x05 0x08 ∧
        ChipsBecome s.engine.opcode (Written 0x05 0x08) s t ∧ t.bus.asserted = none ∧ t.bus.txnOpen = false)

/-- BEGIN with `haen` sets HAEN in every chip of the line whose HAEN is still clear, whatever its address pins
(40_lifecycle.md R86, 60_exceptions.md R153); from then on the engine's frames reach it only if its pins hold the
engine's device address (70_reset_and_hazards.md R174). -/
def Obligations.BeginTurnsHardwareAddressingOn : Prop :=
  ∀ (a b : Byte) (s t : State) (k : Nat) (c c' : Chip), Sound s → s.engine.haen = true →
    exec (.begin a b) s = .next t → s.chips[k]? = some c → t.chips[k]? = some c' →
    c.line = s.engine.csPin → c.haenBit = false →
    c'.haenBit = true ∧ (c'.reachedBy t.engine.csPin t.engine.opcode = true ↔ opcodeAddress s.engine.opcode = c.hwaddr)

/-- RESET (40_lifecycle.md R87, R88): one burst, `FF 00 00 00 00 hh 00 00 00 00` from address 0x00 with `hh` = 08 when
`haen` is set, one more 00 when RESET_NDATA is 11; the reached chips hold those values, OLAT is 0x00. (Ten bytes and the
way of the tenth to OLAT are 90_conflicts.md C2; log 15, 28.) -/
def Obligations.ResetRestoresTheChips : Prop :=
  ∀ (a b : Byte) (s : State), Ready s → Sound s →
    ∃ t, exec (.reset a b) s = .next t ∧ CallerBecomes (completedWith none) s t ∧ SameSetting s t ∧
      t.engine = s.engine ∧ t.bus.asserted = none ∧ t.bus.txnOpen = false ∧ t.bus.csOutput = s.bus.csOutput ∧
      t.trace = s.trace ++
        frameEvents s.engine (s.engine.opcode :: 0x00 :: resetList s.engine.haen s.params.resetNdata) ∧
      ChipsBecome s.engine.opcode (ResetDone s.engine.haen s.params.resetNdata) s t

/-! ### Pin-level operations -/

/-- READPIN (41_pin_ops.md R101): command code 0x2; one read of GPIO, the result is bit `pin` of the byte received, 0x00
or 0x01, nothing is written; a pin above 7 gives 0x00 with no event. (The bytes of the command word are log 1, that no
event is emitted is D11, log 28.) -/
def Obligations.ReadpinReadsGpio : Prop :=
  ∀ (pin b : Byte) (s : State), Ready s →
    decode [0x02, pin, b] = .ok (.readpin pin b) ∧
    (pin.toNat ≤ 7 → ∃ t, exec (.readpin pin b) s = .next t ∧ OneRead 0x09 s t ∧
      CallerBecomes (completedWith (some (if (ownRead s 0x09).getLsbD pin.toNat then 0x01 else 0x00))) s t) ∧
    (7 < pin.toNat → ∃ t, exec (.readpin pin b) s = .next t ∧ Nothing s t ∧
      CallerBecomes (completedWith (some 0x00)) s t)

/-- READPIN shows the level and not the latch (41_pin_ops.md R101, 70_reset_and_hazards.md R172): when the engine reaches
exactly one chip the result is the level of its pin whatever OLAT and the direction are, and GETOUTPUTSTATES shows the
latch. -/
def Obligations.ReadpinShowsTheLevel : Prop :=
  ∀ (pin b x y : Byte) (s : State) (n : Nat) (c : Chip), Ready s → SoleChip s n c → pin.toNat ≤ 7 →
    (∃ t, exec (.readpin pin b) s = .next t ∧
      CallerBecomes (completedWith (some (if c.pins.getLsbD pin.toNat then 0x01 else 0x00))) s t) ∧
    (∃ t, exec (.getoutputstates x y) s = .next t ∧ CallerBecomes (completedWith (some (c.regs.read 0x0A))) s t)

/-- WRITEPIN (41_pin_ops.md R102): command code 0x3; transaction 1 reads OLAT and holds the byte; transaction 2 writes it
back with bit `pin` put to the state, always, and completes; a pin above 7 does nothing. The byte written comes from the
byte held, whatever OLAT holds by then. (The bytes of the command word are log 1, a step per transaction is log 3, that
an ignored operation emits nothing is D11, log 28, and phases 2 and 3, which no run reaches, are log 33.) -/
def Obligations.WritepinReadsThenWrites : Prop :=
  ∀ (pin state : Byte) (s : State), Ready s →
    decode [0x03, pin, state] = .ok (.writepin pin state) ∧
    (pin.toNat ≤ 7 → s.phase = .read0 ∨ s.phase = .read1 → ∃ t, exec (.writepin pin state) s = .next t ∧
      OneRead 0x0A s t ∧ CallerBecomes (goingOn (.writepin pin state) (.write0 (ownRead s 0x0A))) s t) ∧
    (∀ r, pin.toNat ≤ 7 → s.phase = .write0 r ∨ s.phase = .write1 r → Sound s →
      ∃ t, exec (.writepin pin state) s = .next t ∧
        OneWrite 0x0A (putBit r pin (decide (state ≠ 0))) s t ∧ CallerBecomes (completedWith none) s t) ∧
    (7 < pin.toNat → ∃ t, exec (.writepin pin state) s = .next t ∧ Nothing s t ∧
      CallerBecomes (completedWith none) s t)

/-- WRITEPIN with nobody in between (95_test_vectors.md T1), when the engine reaches exactly one chip: the latch of that
chip has bit `pin` put to the state, its other bits and every other register are as before, and the fourteen events are
those of the two transactions. -/
def Obligations.WritepinAloneSetsOneLatchBit : Prop :=
  ∀ (pin state : Byte) (s : State) (n : Nat) (c : Chip) (x : Caller), Ready s → Sound s → SoleChip s n c →
    pin.toNat ≤ 7 →
    s.phase = .read0 → s.callers[s.active]? = some x →
    ∃ t c', runAlone 3 (.writepin pin state) s = .next t ∧ OnlyChip n s t ∧ t.chips[n]? = some c' ∧
      (∀ j, j < 8 → (c'.regs.read 0x0A).getLsbD j =
        if j = pin.toNat then decide (state ≠ 0) else (c.regs.read 0x0A).getLsbD j) ∧
      (∀ a, a ≠ 0x0A → c'.regs.read a = c.regs.read a) ∧ t.engine = s.engine ∧
      t.trace = s.trace ++ readEvents s.engine s.params.dummyByte 0x0A ++
        writeEvents s.engine 0x0A (c'.regs.read 0x0A) ∧
      t.callers[s.active]? = some (completedWith none x)

/-- SETPINMODE, transaction by transaction (41_pin_ops.md R103, R104): IODIR is read, then written with bit `pin` cleared
for an output and set for an input, then GPPU is read, then written with bit `pin` set for a pull-up and cleared else.
(The order and the unconditional writes are 92_eei_decisions.md D12; log 28.) -/
def Obligations.SetpinmodeRunsTwoPairs : Prop :=
  ∀ (pin mode : Byte) (s : State), Ready s → pin.toNat ≤ 7 →
    mode ∈ [s.params.modeInput, s.params.modeOutput, s.params.modeInputPullup] →
    (s.phase = .read0 → ∃ t, exec (.setpinmode pin mode) s = .next t ∧ OneRead 0x00 s t ∧
      CallerBecomes (goingOn (.setpinmode pin mode) (.write0 (ownRead s 0x00))) s t) ∧
    (∀ r, s.phase = .write0 r → Sound s → ∃ t, exec (.setpinmode pin mode) s = .next t ∧
      OneWrite 0x00 (putBit r pin (decide (mode ≠ s.params.modeOutput))) s t ∧
      CallerBecomes (goingOn (.setpinmode pin mode) .read1) s t) ∧
    (s.phase = .read1 → ∃ t, exec (.setpinmode pin mode) s = .next t ∧ OneRead 0x06 s t ∧
      CallerBecomes (goingOn (.setpinmode pin mode) (.write1 (ownRead s 0x06))) s t) ∧
    (∀ q, s.phase = .write1 q → Sound s → ∃ t, exec (.setpinmode pin mode) s = .next t ∧
      OneWrite 0x06 (putBit q pin (decide (mode = s.params.modeInputPullup))) s t ∧
      CallerBecomes (completedWith none) s t)

/-- SETPINMODE with nobody in between (41_pin_ops.md R104, 10_state.md R26, 95_test_vectors.md T2): the pin of the chip
reached has the mode asked for, every other pin keeps its own, every register but IODIR and GPPU, OLAT among them, reads
as before, and the events are those of the four transactions. (The order of the two pairs and the unconditional writes
are 92_eei_decisions.md D12; log 28.) -/
def Obligations.SetpinmodeAloneSetsTheMode : Prop :=
  ∀ (pin mode : Byte) (s : State) (n : Nat) (c : Chip) (x : Caller), Ready s → Sound s → SoleChip s n c →
    pin.toNat ≤ 7 →
    mode ∈ [s.params.modeInput, s.params.modeOutput, s.params.modeInputPullup] →
    s.phase = .read0 → s.callers[s.active]? = some x →
    ∃ t c', runAlone 3 (.setpinmode pin mode) s = .next t ∧ OnlyChip n s t ∧ t.chips[n]? = some c' ∧
      c'.pinMode pin.toNat = (if mode = s.params.modeOutput then .output
        else if mode = s.params.modeInputPullup then .inputPullup else .input) ∧
      (∀ j, j < 8 → j ≠ pin.toNat → c'.pinMode j = c.pinMode j) ∧
      (∀ a, a ≠ 0x00 → a ≠ 0x06 → c'.regs.read a = c.regs.read a) ∧ t.engine = s.engine ∧
      t.trace = s.trace ++ (readEvents s.engine s.params.dummyByte 0x00 ++
        writeEvents s.engine 0x00 (c'.regs.read 0x00) ++ readEvents s.engine s.params.dummyByte 0x06 ++
        writeEvents s.engine 0x06 (c'.regs.read 0x06)) ∧
      t.callers[s.active]? = some (completedWith none x)

/-- The silent ignore (41_pin_ops.md R100, R104, 60_exceptions.md R141): WRITEPIN and SETPINMODE on a pin above 7, and
SETPINMODE with an unrecognised mode, emit nothing, change nothing and complete. -/
def Obligations.BadPinsAndModesAreIgnored : Prop :=
  ∀ (pin v : Byte) (s : State), Ready s →
    (7 < pin.toNat → ∃ t, exec (.writepin pin v) s = .next t ∧ Nothing s t ∧ CallerBecomes (completedWith none) s t) ∧
    (7 < pin.toNat ∨ v ∉ [s.params.modeInput, s.params.modeOutput, s.params.modeInputPullup] →
      ∃ t, exec (.setpinmode pin v) s = .next t ∧ Nothing s t ∧ CallerBecomes (completedWith none) s t)

/-! ### Bulk operations and the low-level primitives -/

/-- The bulk writes (42_bulk_ops.md R115, R117, R119), codes 0x5, 0x7, 0x9: SETOUTPUTSTATES writes its byte to OLAT,
SETPINMODES the complement of its byte to IODIR, ENABLEPULLUPS its byte to GPPU; one transaction, no read, and no other
register changes. (The bytes of the command words are log 1.) -/
def Obligations.BulkWritesStoreOneByte : Prop :=
  ∀ (byte b : Byte) (s : State), Ready s → Sound s →
    decode [0x05, byte, b] = .ok (.setoutputstates byte b) ∧ decode [0x07, byte, b] = .ok (.setpinmodes byte b) ∧
    decode [0x09, byte, b] = .ok (.enablepullups byte b) ∧
    (∃ t, exec (.setoutputstates byte b) s = .next t ∧ OneWrite 0x0A byte s t ∧
      CallerBecomes (completedWith none) s t) ∧
    (∃ t, exec (.setpinmodes byte b) s = .next t ∧ OneWrite 0x00 (byte ^^^ 0xFF) s t ∧
      CallerBecomes (completedWith none) s t) ∧
    (∃ t, exec (.enablepullups byte b) s = .next t ∧ OneWrite 0x06 byte s t ∧
      CallerBecomes (completedWith none) s t)

/-- The bulk reads (42_bulk_ops.md R116, R118, R120), codes 0x6, 0x8, 0xA: GETOUTPUTSTATES returns the byte read at OLAT,
GETPINMODES the complement of the byte read at IODIR, GETENABLEDPULLUPS the byte read at GPPU; one transaction, no
register changes. (The bytes of the command words are log 1.) -/
def Obligations.BulkReadsReturnOneRegister : Prop :=
  ∀ (a b : Byte) (s : State), Ready s →
    decode [0x06, a, b] = .ok (.getoutputstates a b) ∧ decode [0x08, a, b] = .ok (.getpinmodes a b) ∧
    decode [0x0A, a, b] = .ok (.getenabledpullups a b) ∧
    (∃ t, exec (.getoutputstates a b) s = .next t ∧ OneRead 0x0A s t ∧
      CallerBecomes (completedWith (some (ownRead s 0x0A))) s t) ∧
    (∃ t, exec (.getpinmodes a b) s = .next t ∧ OneRead 0x00 s t ∧
      CallerBecomes (completedWith (some (ownRead s 0x00 ^^^ 0xFF))) s t) ∧
    (∃ t, exec (.getenabledpullups a b) s = .next t ∧ OneRead 0x06 s t ∧
      CallerBecomes (completedWith (some (ownRead s 0x06))) s t)

/-- GETOUTPUTSTATES (42_bulk_ops.md R116): command code 0x6 with its fields ignored; one read of OLAT; the result is the
byte received, which is the latch when the engine reaches exactly one chip, whatever the levels that READPIN shows, and
a free value when it reaches none; no register changes. -/
def Obligations.GetoutputstatesReturnsTheLatch : Prop :=
  ∀ (a b : Byte) (s : State), Ready s →
    decodeCommand 0x6 a b = .getoutputstates a b ∧
    (∀ a' b', exec (.getoutputstates a b) s = exec (.getoutputstates a' b') s) ∧
    (∃ t r, exec (.getoutputstates a b) s = .next t ∧ OneRead 0x0A s t ∧
      CallerBecomes (completedWith (some r)) s t ∧
      (∀ n c, SoleChip s n c → r = c.regs.read 0x0A) ∧
      ((∀ c ∈ s.chips, c.reachedBy s.engine.csPin s.engine.opcode = false) → ∃ n, r = Config.draw n)) ∧
    (∀ n c pin, SoleChip s n c → pin.toNat ≤ 7 → ∃ t, exec (.readpin pin b) s = .next t ∧
      CallerBecomes (completedWith (some (if c.pins.getLsbD pin.toNat then 0x01 else 0x00))) s t)

/-- ENABLEPULLUPS and GETENABLEDPULLUPS (42_bulk_ops.md R119, R120): command codes 0x9, its field `b` ignored, and 0xA,
its fields ignored. The whole byte is written to GPPU, so that a 0 bit disables a pull-up, and nothing else of a chip
changes, IODIR among it; the byte received from GPPU is returned without inversion, and is a free value when no chip is
reached. -/
def Obligations.PullupsAreWrittenAndReadWhole : Prop :=
  ∀ (byte b : Byte) (s : State), Ready s → Sound s →
    decodeCommand 0x9 byte b = .enablepullups byte b ∧ decodeCommand 0xA byte b = .getenabledpullups byte b ∧
    (∀ b', exec (.enablepullups byte b) s = exec (.enablepullups byte b') s) ∧
    (∀ a' b', exec (.getenabledpullups byte b) s = exec (.getenabledpullups a' b') s) ∧
    (∃ t, exec (.enablepullups byte b) s = .next t ∧ OneWrite 0x06 byte s t ∧
      CallerBecomes (completedWith none) s t ∧
      ∀ n c, SoleChip s n c → ∃ c', OnlyChip n s t ∧ t.chips[n]? = some c' ∧
        ∀ a, c'.regs.read a = if a = 0x06 then byte else c.regs.read a) ∧
    (∃ t r, exec (.getenabledpullups byte b) s = .next t ∧ OneRead 0x06 s t ∧
      CallerBecomes (completedWith (some r)) s t ∧
      (∀ n c, SoleChip s n c → r = c.regs.read 0x06) ∧
      ((∀ c ∈ s.chips, c.reachedBy s.engine.csPin s.engine.opcode = false) → ∃ n, r = Config.draw n))

/-- Direction bytes round-trip (42_bulk_ops.md R121, 95_test_vectors.md T3): after SETPINMODES of a byte, GETPINMODES
returns that byte while the chip's own IODIR, as READREGISTER shows it, is the complement. -/
def Obligations.DirectionRoundTrips : Prop :=
  ∀ (byte a b x : Byte) (s t : State) (n : Nat) (c : Chip), Ready s → Sound s → SoleChip s n c →
    exec (.setpinmodes byte b) s = .next t →
    (∃ u, exec (.getpinmodes a b) t = .next u ∧ CallerBecomes (completedWith (some byte)) t u) ∧
    (∃ u, exec (.readregister 0x00 x) t = .next u ∧ CallerBecomes (completedWith (some (byte ^^^ 0xFF))) t u)

/-- WRITEREGISTER (43_primitives.md R130): one write transaction with its operands unchanged, for every address. -/
def Obligations.WriteregisterSendsItsOperands : Prop :=
  ∀ (address data : Byte) (s : State), Ready s → Sound s →
    ∃ t, exec (.writeregister address data) s = .next t ∧ OneWrite address data s t ∧
      CallerBecomes (completedWith none) s t

/-- READREGISTER (43_primitives.md R131): one read transaction of its address, and the byte received whole. -/
def Obligations.ReadregisterReturnsTheByte : Prop :=
  ∀ (address b : Byte) (s : State), Ready s →
    ∃ t, exec (.readregister address b) s = .next t ∧ OneRead address s t ∧
      CallerBecomes (completedWith (some (ownRead s address))) s t

/-- Where a written byte goes at the chip reached (20_memory.md R52, R54): to its own register, for GPIO to OLAT, and for
an address above 0x0A nowhere (log 15, 16). -/
def Obligations.WriteregisterAtEveryAddress : Prop :=
  ∀ (address data : Byte) (s : State) (n : Nat) (c : Chip), Ready s → Sound s → SoleChip s n c →
    ∃ t c', exec (.writeregister address data) s = .next t ∧ OnlyChip n s t ∧ t.chips[n]? = some c' ∧
      (∀ a, c'.regs.read a =
        if address.toNat = 0x09 then (if a = 0x0A then data else c.regs.read a)
        else if address.toNat ≤ 0x0A then (if a = address.toNat then data else c.regs.read a)
        else c.regs.read a)

/-- What a read returns at the chip reached (20_memory.md R53, R54): the register's byte, for GPIO the pin levels, and
above 0x0A a free value. -/
def Obligations.ReadregisterAtEveryAddress : Prop :=
  ∀ (address b : Byte) (s : State) (n : Nat) (c : Chip), Ready s → SoleChip s n c →
    ∃ t r, exec (.readregister address b) s = .next t ∧ CallerBecomes (completedWith (some r)) s t ∧
      (if address.toNat = 0x09 then r = c.pins
        else if address.toNat ≤ 0x0A then r = c.regs.read address.toNat
        else ∃ n, r = Config.draw n)

/-- Fields an operation does not list are ignored (30_encoding.md R72). -/
def Obligations.UnlistedFieldsAreIgnored : Prop :=
  ∀ (a b a' b' : Byte) (s : State),
    exec (.begin a b) s = exec (.begin a' b') s ∧ exec (.reset a b) s = exec (.reset a' b') s ∧
    exec (.readpin a b) s = exec (.readpin a b') s ∧
    exec (.setoutputstates a b) s = exec (.setoutputstates a b') s ∧
    exec (.getoutputstates a b) s = exec (.getoutputstates a' b') s ∧
    exec (.setpinmodes a b) s = exec (.setpinmodes a b') s ∧
    exec (.getpinmodes a b) s = exec (.getpinmodes a' b') s ∧
    exec (.enablepullups a b) s = exec (.enablepullups a b') s ∧
    exec (.getenabledpullups a b) s = exec (.getenabledpullups a' b') s ∧
    exec (.readregister a b) s = exec (.readregister a b') s

/-- The closed list of frames (30_encoding.md R69): in one step an operation other than WRITEREGISTER and READREGISTER
emits nothing, PIN_OUTPUT alone, BEGIN's PIN_OUTPUT and write of IOCON, or one frame of the list, the burst of RESET being
that of 40_lifecycle.md R88 with ten data bytes or eleven. (It rests on D7, D8 and D11, log 28.) -/
def Obligations.ClosedListOfFrames : Prop :=
  ∀ (i : Instr) (s t : State), isOperation i = true → (∀ a d, i ≠ .writeregister a d) →
    (∀ a b, i ≠ .readregister a b) → exec i s = .next t →
    ∃ new, t.trace = s.trace ++ new ∧
      (new = [] ∨ new = [.pinOutput s.engine.csPin] ∨
        (s.engine.haen = true ∧ new = .pinOutput s.engine.csPin :: writeEvents s.engine 0x05 0x08) ∨
        (∃ a ∈ [0x00, 0x06, 0x0A], ∃ d, new = writeEvents s.engine a d) ∨
        (∃ a ∈ [0x00, 0x06, 0x09, 0x0A], new = readEvents s.engine s.params.dummyByte a) ∨
        new = frameEvents s.engine (s.engine.opcode :: 0x00 :: resetList s.engine.haen s.params.resetNdata))

/-! ### Wire rows -/

/-- WRITE_FRAME and READ_FRAME (30_encoding.md R63, R64), as the transaction of a driver of the transport on the engine's
line, with any device address and before BEGIN too (the model's reading of these rows: log 2). What the byte does at a
chip, and what a chip answers, is 20_memory.md R52 to R54: a byte for GPIO goes to OLAT (log 15), and above 0x0A nothing
is stored and a read is a free value (log 16). -/
def Obligations.WireFramesAreTransactions : Prop :=
  ∀ (aa : BitVec 2) (address v : Byte) (s : State),
    (Sound s → ∃ t, exec (.writeFrame aa address v) s = .next t ∧
      OneFrame [0x40 ||| (aa.zeroExtend 8 <<< 1), address, v] (Written address v) s t ∧
      CallerBecomes (completedWith none) s t) ∧
    (∃ t, exec (.readFrame aa address v) s = .next t ∧
      OneFrame [0x41 ||| (aa.zeroExtend 8 <<< 1), address, v] (Answered address) s t ∧
      CallerBecomes (completedWith (some (received s (0x41 ||| (aa.zeroExtend 8 <<< 1)) address))) s t)

/-- OPCODE_BYTE and RESET_BURST_FRAME (30_encoding.md R60, R65, 20_memory.md R51): a frame of the opcode byte alone
changes no chip at all, the burst leaves RESET's values in every chip it reaches (40_lifecycle.md R87, R88, 20_memory.md
R52, R54). The reading of these rows is the model's (log 2, log 34); OLAT takes the byte sent for GPIO (log 15). -/
def Obligations.OpcodeByteAndBurstOnTheWire : Prop :=
  ∀ (aa : BitVec 2) (flag : Bool) (ndata : Nat) (s : State),
    (∃ t, exec (.opcodeByte aa flag) s = .next t ∧
      OneFrame [(if flag then 0x41 else 0x40) ||| (aa.zeroExtend 8 <<< 1)] Untouched s t ∧
      CallerBecomes (completedWith none) s t) ∧
    (Sound s → ndata = 10 ∨ ndata = 11 → ∃ t, exec (.resetBurstFrame aa flag ndata) s = .next t ∧
      OneFrame ((0x40 ||| (aa.zeroExtend 8 <<< 1)) :: 0x00 :: resetList flag ndata) (ResetDone flag ndata) s t ∧
      CallerBecomes (completedWith none) s t)

/-! ### Outcomes -/

/-- Every operation completes or goes on (60_exceptions.md R140): under admitted parameters and after BEGIN, every
instruction that is not a reserved code answers a next state, on every operand and at every phase. -/
def Obligations.EveryInstructionRuns : Prop :=
  ∀ (i : Instr) (s : State), Ready s → isReserved i = false → ∃ t, exec i s = .next t

/-- Every operation ends (70_reset_and_hazards.md R168, R180, 10_state.md R16): run with nobody in between from phase 0 it
is complete after at most four transactions. -/
def Obligations.OperationsEndWithinFourTransactions : Prop :=
  ∀ (i : Instr) (s : State) (x : Caller), Ready s → isReserved i = false → s.phase = .read0 →
    s.callers[s.active]? = some x →
    ∃ t y, runAlone 3 i s = .next t ∧ t.callers[s.active]? = some y ∧ y.flight = none ∧
      y.completed = x.completed + 1 ∧ y.pending = x.pending

/-- Before BEGIN (60_exceptions.md R147): every operation but BEGIN is refused, and BEGIN is not. -/
def Obligations.RefusedBeforeBegin : Prop :=
  ∀ (i : Instr) (s : State), paramsOk s.params = true → s.engine.begun = false → isOperation i = true →
    isReserved i = false →
    if isBegin i then ∃ t, exec i s = .next t else exec i s = .refused .notBegun

/-- The reserved codes (30_encoding.md R73, 60_exceptions.md R147) are refused in every state, and are no no-ops. -/
def Obligations.ReservedCodesRefused : Prop :=
  ∀ (a b : Byte) (s : State), exec (.reservedD a b) s = .refused .reservedCode ∧
    exec (.reservedE a b) s = .refused .reservedCode ∧ exec (.reservedF a b) s = .refused .reservedCode

/-- Excluded parameters (60_exceptions.md R147): with two equal mode codes, or RESET_NDATA neither 10 nor 11, no step has a
meaning. -/
def Obligations.BadConfigurationRefused : Prop :=
  ∀ s : State, (s.params.modeInput = s.params.modeOutput ∨ s.params.modeInput = s.params.modeInputPullup ∨
      s.params.modeOutput = s.params.modeInputPullup ∨ (s.params.resetNdata ≠ 10 ∧ s.params.resetNdata ≠ 11)) →
    step s = .refused .badConfiguration

/-! ### Steps, callers and the environment -/

/-- A step runs the decoded instruction: when it is the turn of a caller with nothing in flight whose next word decodes,
and it need not wait, the step is `exec` of that instruction, the word taken from the port and in flight at phase 0. -/
def Obligations.StepRunsDecodedInstruction : Prop :=
  ∀ (s : State) (k : Nat) (rest : List Turn) (c : Caller) (w : List Byte) (ws : List (List Byte)) (i : Instr),
    paramsOk s.params = true → s.schedule = .caller k :: rest → s.callers[k]? = some c → c.flight = none →
    c.pending = w :: ws → decode w = .ok i → s.blocked k i = false →
    step s = exec i { s with
      schedule := rest
      active := k
      callers := s.callers.set k { c with pending := ws, flight := some { op := i, phase := .read0 } } }

/-- A step goes on with the operation in flight (60_exceptions.md R151): `exec` of it, at the phase it has reached. -/
def Obligations.StepContinuesOperation : Prop :=
  ∀ (s : State) (k : Nat) (rest : List Turn) (c : Caller) (f : Flight),
    paramsOk s.params = true → s.schedule = .caller k :: rest → s.callers[k]? = some c → c.flight = some f →
    s.blocked k f.op = false →
    step s = exec f.op { s with schedule := rest, active := k } ∧
      ({ s with schedule := rest, active := k } : State).phase = f.phase

/-- A presented word is what the next step runs (the host's interface; log 5). -/
def Obligations.PresentedWordRuns : Prop :=
  ∀ (s : State) (nbits w : Nat) (i : Instr), paramsOk s.params = true → decodeTableWord nbits w = some i →
    ∃ s', step (s.withFetchWord nbits w) = exec i s' ∧ s'.phase = .read0 ∧ s'.active = 0 ∧
      s'.schedule = s.schedule ∧ s'.params = s.params ∧ s'.engine = s.engine ∧ s'.bus = s.bus ∧ s'.chips = s.chips ∧
      s'.trace = s.trace ∧ s'.draws = s.draws

/-- The environment (20_memory.md R50, R55, 70_reset_and_hazards.md R166): changing the pin levels of a chip changes those
alone; power-cycling it gives every register its power-on value and leaves the engine and the other chips as they were. -/
def Obligations.EnvironmentTouchesOnlyTheChip : Prop :=
  ∀ (s : State) (j : Nat) (levels : Byte) (rest : List Turn) (c : Chip), paramsOk s.params = true →
    s.chips[j]? = some c →
    (s.schedule = .pins j levels :: rest → ∃ t, step s = .next t ∧
      t = { s with schedule := rest, chips := t.chips } ∧ t.chips[j]? = some { c with pins := levels } ∧
      ∀ k, k ≠ j → t.chips[k]? = s.chips[k]?) ∧
    (s.schedule = .power j :: rest → ∃ t c', step s = .next t ∧
      t = { s with schedule := rest, chips := t.chips, draws := t.draws } ∧ t.chips[j]? = some c' ∧
      c'.line = c.line ∧ c'.hwaddr = c.hwaddr ∧ c'.regs.read 0x00 = 0xFF ∧ (∀ a, 0 < a → c'.regs.read a = 0x00) ∧
      ∀ k, k ≠ j → t.chips[k]? = s.chips[k]?)

/-- The lost update (60_exceptions.md R152, 95_test_vectors.md P3): when the engine reaches exactly one chip and two
callers run WRITEPIN so that both reads come before both writes, the latch ends with the second writer's change alone, and
both complete without any sign of it. (That nothing falls inside a transaction is D14, log 29.) -/
def Obligations.LostUpdate : Prop :=
  ∀ (s : State) (n : Nat) (c : Chip) (x y : Caller) (p a q b : Byte), Ready s → Sound s → SoleChip s n c →
    s.params.hardenRmw = false → p.toNat ≤ 7 → q.toNat ≤ 7 → s.callers = [x, y] → x.flight = none → y.flight = none →
    x.pending = [encode (.writepin p a)] → y.pending = [encode (.writepin q b)] →
    s.schedule = [.caller 0, .caller 1, .caller 0, .caller 1] →
    ∃ t c', runSteps 4 s = .next t ∧ OnlyChip n s t ∧ t.chips[n]? = some c' ∧
      c'.regs.read 0x0A = putBit (c.regs.read 0x0A) q (decide (b ≠ 0)) ∧
      t.callers = [{ x with pending := [], result := none, completed := x.completed + 1 },
        { y with pending := [], result := none, completed := y.completed + 1 }]

/-- A bulk write in the gap is lost too (60_exceptions.md R152, 70_reset_and_hazards.md R179): when the engine
reaches exactly one chip, SETOUTPUTSTATES between the read and the write of another caller's WRITEPIN is overwritten by
the byte computed before it. (That nothing falls inside a transaction is D14, log 29.) -/
def Obligations.BulkWriteInTheGapIsLost : Prop :=
  ∀ (s : State) (n : Nat) (c : Chip) (x y : Caller) (p a byte b : Byte), Ready s → Sound s → SoleChip s n c →
    s.params.hardenRmw = false → p.toNat ≤ 7 → s.callers = [x, y] → x.flight = none → y.flight = none →
    x.pending = [encode (.writepin p a)] → y.pending = [encode (.setoutputstates byte b)] →
    s.schedule = [.caller 0, .caller 1, .caller 0] →
    ∃ t c', runSteps 3 s = .next t ∧ OnlyChip n s t ∧ t.chips[n]? = some c' ∧
      c'.regs.read 0x0A = putBit (c.regs.read 0x0A) p (decide (a ≠ 0))

/-- HARDEN_RMW (20_memory.md R48, 60_exceptions.md R151): while one caller is inside a read-then-write pair, the turn of
another caller whose next instruction is an operation of the engine passes without effect. -/
def Obligations.HardenedPairExcludesOthers : Prop :=
  ∀ (s : State) (j k : Nat) (rest : List Turn) (c : Caller) (i : Instr), paramsOk s.params = true →
    s.params.hardenRmw = true → s.schedule = .caller k :: rest → j ≠ k → s.holdsPair j = true →
    s.callers[k]? = some c → nextInstr c = some i → isOperation i = true →
    step s = .next { s with schedule := rest, active := k }

/-- HARDEN_RMW holds back no other driver of the transport (20_memory.md R48): frames are never blocked. The turn sends
exactly the bytes of the frame (log 2). -/
def Obligations.OtherDriversAreNotExcluded : Prop :=
  ∀ (s : State) (k : Nat) (rest : List Turn) (c : Caller) (i : Instr), paramsOk s.params = true →
    s.schedule = .caller k :: rest → s.callers[k]? = some c → nextInstr c = some i → isOperation i = false →
    ∃ t, step s = .next t ∧ t.trace = s.trace ++ frameEvents s.engine (encode i)

/-- A turn that finds nothing to do passes (70_reset_and_hazards.md R168): an idle engine changes nothing but the turn. -/
def Obligations.IdleTurnsPass : Prop :=
  ∀ s : State, paramsOk s.params = true →
    (s.schedule = [] → step s = .next s) ∧
    (∀ (k : Nat) (rest : List Turn), s.schedule = .caller k :: rest →
      (∀ c, s.callers[k]? = some c → c.flight = none ∧ c.pending = []) →
      step s = .next { s with schedule := rest, active := k })
end

