-- ==== Sys2Proof/Laws/Memory.lean ====
section
/-! SUPPORT. The register file: read after write, every other address alone, and the canonical form kept. -/
namespace Sys2Proof.Machine

@[simp] theorem Memory.read_nil (a : Nat) : Memory.read [] a = Memory.powerOn a := rfl

theorem Memory.read_cons (b : Nat) (v : Byte) (m : Memory) (a : Nat) :
    Memory.read ((b, v) :: m) a = if b = a then v else Memory.read m a := rfl

/-- An address below every listed one reads as unlisted. -/
theorem Memory.read_of_below (m : Memory) (a : Nat) (h : ∀ c ∈ m, a < c.1) : m.read a = Memory.powerOn a := by
  induction m with
  | nil => rfl
  | cons c m ih =>
    obtain ⟨b, v⟩ := c
    have hb : a < b := h (b, v) (by simp)
    rw [Memory.read_cons, if_neg (by omega)]
    exact ih fun c hc => h c (by simp [hc])

/-- The canonical form, one entry at a time. -/
theorem Memory.wf_cons (a : Nat) (v : Byte) (m : Memory) :
    Memory.wf ((a, v) :: m) = true ↔ v ≠ Memory.powerOn a ∧ (∀ c ∈ m, a < c.1) ∧ m.wf = true := by
  simp [Memory.wf, and_assoc]

/-- A write lists no address but its own and those listed before. -/
theorem Memory.mem_write (m : Memory) (a : Nat) (v : Byte) (c : Host.Cell) (h : c ∈ m.write a v) :
    c.1 = a ∨ c ∈ m := by
  induction m with
  | nil => simp only [Memory.write] at h; split at h <;> simp_all
  | cons d m ih =>
    obtain ⟨b, w⟩ := d
    simp only [Memory.write] at h
    split at h
    · split at h
      · exact .inr h
      · exact (List.mem_cons.mp h).imp (fun e => by rw [e]) id
    · split at h
      · next heq =>
        subst heq
        split at h
        · exact .inr (List.mem_cons_of_mem _ h)
        · exact (List.mem_cons.mp h).imp (fun e => by rw [e]) (List.mem_cons_of_mem _)
      · rcases List.mem_cons.mp h with rfl | h
        · simp
        · rcases ih h with h | h <;> simp [h]

/-- The address written reads as the byte written. -/
theorem Memory.read_write_same (m : Memory) (a : Nat) (v : Byte) (h : m.wf = true) : (m.write a v).read a = v := by
  induction m with
  | nil => simp only [Memory.write]; split <;> simp_all [Memory.read_cons]
  | cons d m ih =>
    obtain ⟨b, w⟩ := d
    obtain ⟨-, hlt, hm⟩ := (Memory.wf_cons b w m).mp h
    simp only [Memory.write]
    by_cases hab : a < b
    · rw [if_pos hab]
      split
      · next hv =>
        rw [hv]
        exact Memory.read_of_below _ a fun c hc => by
          rcases List.mem_cons.mp hc with rfl | hc
          · exact hab
          · have := hlt c hc; omega
      · simp [Memory.read_cons]
    · rw [if_neg hab]
      by_cases heq : a = b
      · subst heq
        rw [if_pos rfl]
        split
        · next hv => rw [hv]; exact Memory.read_of_below m a hlt
        · simp [Memory.read_cons]
      · rw [if_neg heq, Memory.read_cons, if_neg (by omega)]
        exact ih hm

/-- Every other address reads as before. -/
theorem Memory.read_write_other (m : Memory) (a b : Nat) (v : Byte) (hab : b ≠ a) :
    (m.write a v).read b = m.read b := by
  induction m with
  | nil => simp only [Memory.write]; split <;> simp [Memory.read_cons]; omega
  | cons d m ih =>
    obtain ⟨c, w⟩ := d
    simp only [Memory.write]
    split
    · split
      · rfl
      · rw [Memory.read_cons a v, if_neg (by omega)]
    · split
      · next heq =>
        subst heq
        split
        · rw [Memory.read_cons, if_neg (by omega)]
        · rw [Memory.read_cons, Memory.read_cons, if_neg (by omega), if_neg (by omega)]
      · rw [Memory.read_cons, Memory.read_cons, ih]

/-- A write keeps the canonical form. -/
theorem Memory.write_wf (m : Memory) (a : Nat) (v : Byte) (h : m.wf = true) : (m.write a v).wf = true := by
  induction m with
  | nil =>
    simp only [Memory.write]
    split
    · rfl
    · exact (Memory.wf_cons a v []).mpr ⟨by assumption, by simp, rfl⟩
  | cons d m ih =>
    obtain ⟨b, w⟩ := d
    obtain ⟨hw, hlt, hm⟩ := (Memory.wf_cons b w m).mp h
    simp only [Memory.write]
    split
    · split
      · exact h
      · refine (Memory.wf_cons _ _ _).mpr ⟨by assumption, fun c hc => ?_, h⟩
        rcases List.mem_cons.mp hc with rfl | hc
        · assumption
        · have := hlt c hc; omega
    · split
      · next heq =>
        subst heq
        split
        · exact hm
        · exact (Memory.wf_cons _ _ _).mpr ⟨by assumption, hlt, hm⟩
      · refine (Memory.wf_cons _ _ _).mpr ⟨hw, fun c hc => ?_, ih hm⟩
        rcases Memory.mem_write m a v c hc with h | h
        · omega
        · exact hlt c h

/-- A write to a storage address keeps the listed addresses storage addresses. -/
theorem Memory.write_inSpace (m : Memory) (a : Nat) (v : Byte) (h : m.inSpace = true) (ha : isStorage a = true) :
    (m.write a v).inSpace = true := by
  simp only [Memory.inSpace, List.all_eq_true] at h ⊢
  intro c hc
  rcases Memory.mem_write m a v c hc with h' | h'
  · rw [h', ha]
  · exact h c h'

end Sys2Proof.Machine
end

