-- ==== Sys2Proof/Laws/State.lean ====
section
/-! SUPPORT. One lemma per field per update of the state, each true by `rfl`. -/
namespace Sys2Proof.Machine

/-! ### `State.emit` -/

@[simp] theorem State.emit_params (e : Event) (s : State) :
    (s.emit e).params = s.params := rfl
@[simp] theorem State.emit_engine (e : Event) (s : State) :
    (s.emit e).engine = s.engine := rfl
@[simp] theorem State.emit_bus (e : Event) (s : State) :
    (s.emit e).bus = s.bus := rfl
@[simp] theorem State.emit_chips (e : Event) (s : State) :
    (s.emit e).chips = s.chips := rfl
@[simp] theorem State.emit_callers (e : Event) (s : State) :
    (s.emit e).callers = s.callers := rfl
@[simp] theorem State.emit_active (e : Event) (s : State) :
    (s.emit e).active = s.active := rfl
@[simp] theorem State.emit_schedule (e : Event) (s : State) :
    (s.emit e).schedule = s.schedule := rfl
@[simp] theorem State.emit_trace (e : Event) (s : State) :
    (s.emit e).trace = s.trace ++ [e] := rfl
@[simp] theorem State.emit_draws (e : Event) (s : State) :
    (s.emit e).draws = s.draws := rfl

/-! ### `State.pinOutput` -/

@[simp] theorem State.pinOutput_params (s : State) :
    (s.pinOutput).params = s.params := rfl
@[simp] theorem State.pinOutput_engine (s : State) :
    (s.pinOutput).engine = s.engine := rfl
@[simp] theorem State.pinOutput_bus (s : State) :
    (s.pinOutput).bus = { s.bus with csOutput := true } := rfl
@[simp] theorem State.pinOutput_chips (s : State) :
    (s.pinOutput).chips = s.chips := rfl
@[simp] theorem State.pinOutput_callers (s : State) :
    (s.pinOutput).callers = s.callers := rfl
@[simp] theorem State.pinOutput_active (s : State) :
    (s.pinOutput).active = s.active := rfl
@[simp] theorem State.pinOutput_schedule (s : State) :
    (s.pinOutput).schedule = s.schedule := rfl
@[simp] theorem State.pinOutput_trace (s : State) :
    (s.pinOutput).trace = s.trace ++ [.pinOutput s.engine.csPin] := rfl
@[simp] theorem State.pinOutput_draws (s : State) :
    (s.pinOutput).draws = s.draws := rfl

/-! ### `State.txnBegin` -/

@[simp] theorem State.txnBegin_params (s : State) :
    (s.txnBegin).params = s.params := rfl
@[simp] theorem State.txnBegin_engine (s : State) :
    (s.txnBegin).engine = s.engine := rfl
@[simp] theorem State.txnBegin_bus (s : State) :
    (s.txnBegin).bus = { s.bus with txnOpen := true } := rfl
@[simp] theorem State.txnBegin_chips (s : State) :
    (s.txnBegin).chips = s.chips := rfl
@[simp] theorem State.txnBegin_callers (s : State) :
    (s.txnBegin).callers = s.callers := rfl
@[simp] theorem State.txnBegin_active (s : State) :
    (s.txnBegin).active = s.active := rfl
@[simp] theorem State.txnBegin_schedule (s : State) :
    (s.txnBegin).schedule = s.schedule := rfl
@[simp] theorem State.txnBegin_trace (s : State) :
    (s.txnBegin).trace = s.trace ++ [.txnBegin s.engine.busCfg] := rfl
@[simp] theorem State.txnBegin_draws (s : State) :
    (s.txnBegin).draws = s.draws := rfl

/-! ### `State.csAssert` -/

@[simp] theorem State.csAssert_params (s : State) :
    (s.csAssert).params = s.params := rfl
@[simp] theorem State.csAssert_engine (s : State) :
    (s.csAssert).engine = s.engine := rfl
@[simp] theorem State.csAssert_bus (s : State) :
    (s.csAssert).bus = { s.bus with asserted := some s.engine.csPin } := rfl
@[simp] theorem State.csAssert_chips (s : State) :
    (s.csAssert).chips = s.chips.map (Chip.csAssert s.engine.csPin) := rfl
@[simp] theorem State.csAssert_callers (s : State) :
    (s.csAssert).callers = s.callers := rfl
@[simp] theorem State.csAssert_active (s : State) :
    (s.csAssert).active = s.active := rfl
@[simp] theorem State.csAssert_schedule (s : State) :
    (s.csAssert).schedule = s.schedule := rfl
@[simp] theorem State.csAssert_trace (s : State) :
    (s.csAssert).trace = s.trace ++ [.csAssert s.engine.csPin] := rfl
@[simp] theorem State.csAssert_draws (s : State) :
    (s.csAssert).draws = s.draws := rfl

/-! ### `State.csDeassert` -/

@[simp] theorem State.csDeassert_params (s : State) :
    (s.csDeassert).params = s.params := rfl
@[simp] theorem State.csDeassert_engine (s : State) :
    (s.csDeassert).engine = s.engine := rfl
@[simp] theorem State.csDeassert_bus (s : State) :
    (s.csDeassert).bus = { s.bus with asserted := none } := rfl
@[simp] theorem State.csDeassert_chips (s : State) :
    (s.csDeassert).chips = s.chips.map Chip.csDeassert := rfl
@[simp] theorem State.csDeassert_callers (s : State) :
    (s.csDeassert).callers = s.callers := rfl
@[simp] theorem State.csDeassert_active (s : State) :
    (s.csDeassert).active = s.active := rfl
@[simp] theorem State.csDeassert_schedule (s : State) :
    (s.csDeassert).schedule = s.schedule := rfl
@[simp] theorem State.csDeassert_trace (s : State) :
    (s.csDeassert).trace = s.trace ++ [.csDeassert s.engine.csPin] := rfl
@[simp] theorem State.csDeassert_draws (s : State) :
    (s.csDeassert).draws = s.draws := rfl

/-! ### `State.txnEnd` -/

@[simp] theorem State.txnEnd_params (s : State) :
    (s.txnEnd).params = s.params := rfl
@[simp] theorem State.txnEnd_engine (s : State) :
    (s.txnEnd).engine = s.engine := rfl
@[simp] theorem State.txnEnd_bus (s : State) :
    (s.txnEnd).bus = { s.bus with txnOpen := false } := rfl
@[simp] theorem State.txnEnd_chips (s : State) :
    (s.txnEnd).chips = s.chips := rfl
@[simp] theorem State.txnEnd_callers (s : State) :
    (s.txnEnd).callers = s.callers := rfl
@[simp] theorem State.txnEnd_active (s : State) :
    (s.txnEnd).active = s.active := rfl
@[simp] theorem State.txnEnd_schedule (s : State) :
    (s.txnEnd).schedule = s.schedule := rfl
@[simp] theorem State.txnEnd_trace (s : State) :
    (s.txnEnd).trace = s.trace ++ [.txnEnd] := rfl
@[simp] theorem State.txnEnd_draws (s : State) :
    (s.txnEnd).draws = s.draws := rfl

/-! ### `State.complete` -/

@[simp] theorem State.complete_params (r : Option Byte) (s : State) :
    (s.complete r).params = s.params := rfl
@[simp] theorem State.complete_engine (r : Option Byte) (s : State) :
    (s.complete r).engine = s.engine := rfl
@[simp] theorem State.complete_bus (r : Option Byte) (s : State) :
    (s.complete r).bus = s.bus := rfl
@[simp] theorem State.complete_chips (r : Option Byte) (s : State) :
    (s.complete r).chips = s.chips := rfl
@[simp] theorem State.complete_callers (r : Option Byte) (s : State) :
    (s.complete r).callers = s.callers.modify s.active fun c =>
      { c with flight := none, result := r, completed := c.completed + 1 } := rfl
@[simp] theorem State.complete_active (r : Option Byte) (s : State) :
    (s.complete r).active = s.active := rfl
@[simp] theorem State.complete_schedule (r : Option Byte) (s : State) :
    (s.complete r).schedule = s.schedule := rfl
@[simp] theorem State.complete_trace (r : Option Byte) (s : State) :
    (s.complete r).trace = s.trace := rfl
@[simp] theorem State.complete_draws (r : Option Byte) (s : State) :
    (s.complete r).draws = s.draws := rfl

/-! ### `State.goOn` -/

@[simp] theorem State.goOn_params (op : Instr) (p : Phase) (s : State) :
    (s.goOn op p).params = s.params := rfl
@[simp] theorem State.goOn_engine (op : Instr) (p : Phase) (s : State) :
    (s.goOn op p).engine = s.engine := rfl
@[simp] theorem State.goOn_bus (op : Instr) (p : Phase) (s : State) :
    (s.goOn op p).bus = s.bus := rfl
@[simp] theorem State.goOn_chips (op : Instr) (p : Phase) (s : State) :
    (s.goOn op p).chips = s.chips := rfl
@[simp] theorem State.goOn_callers (op : Instr) (p : Phase) (s : State) :
    (s.goOn op p).callers = s.callers.modify s.active fun c =>
      { c with flight := some { op := op, phase := p } } := rfl
@[simp] theorem State.goOn_active (op : Instr) (p : Phase) (s : State) :
    (s.goOn op p).active = s.active := rfl
@[simp] theorem State.goOn_schedule (op : Instr) (p : Phase) (s : State) :
    (s.goOn op p).schedule = s.schedule := rfl
@[simp] theorem State.goOn_trace (op : Instr) (p : Phase) (s : State) :
    (s.goOn op p).trace = s.trace := rfl
@[simp] theorem State.goOn_draws (op : Instr) (p : Phase) (s : State) :
    (s.goOn op p).draws = s.draws := rfl

/-! ### `State.accept` -/

@[simp] theorem State.accept_params (k : Nat) (i : Instr) (s : State) :
    (s.accept k i).params = s.params := rfl
@[simp] theorem State.accept_engine (k : Nat) (i : Instr) (s : State) :
    (s.accept k i).engine = s.engine := rfl
@[simp] theorem State.accept_bus (k : Nat) (i : Instr) (s : State) :
    (s.accept k i).bus = s.bus := rfl
@[simp] theorem State.accept_chips (k : Nat) (i : Instr) (s : State) :
    (s.accept k i).chips = s.chips := rfl
@[simp] theorem State.accept_callers (k : Nat) (i : Instr) (s : State) :
    (s.accept k i).callers = s.callers.modify k fun c =>
      { c with pending := c.pending.tail, flight := some { op := i, phase := .read0 } } := rfl
@[simp] theorem State.accept_active (k : Nat) (i : Instr) (s : State) :
    (s.accept k i).active = s.active := rfl
@[simp] theorem State.accept_schedule (k : Nat) (i : Instr) (s : State) :
    (s.accept k i).schedule = s.schedule := rfl
@[simp] theorem State.accept_trace (k : Nat) (i : Instr) (s : State) :
    (s.accept k i).trace = s.trace := rfl
@[simp] theorem State.accept_draws (k : Nat) (i : Instr) (s : State) :
    (s.accept k i).draws = s.draws := rfl

/-! ### `State.setPins` -/

@[simp] theorem State.setPins_params (j : Nat) (v : Byte) (s : State) :
    (s.setPins j v).params = s.params := rfl
@[simp] theorem State.setPins_engine (j : Nat) (v : Byte) (s : State) :
    (s.setPins j v).engine = s.engine := rfl
@[simp] theorem State.setPins_bus (j : Nat) (v : Byte) (s : State) :
    (s.setPins j v).bus = s.bus := rfl
@[simp] theorem State.setPins_chips (j : Nat) (v : Byte) (s : State) :
    (s.setPins j v).chips = s.chips.modify j fun c => { c with pins := v } := rfl
@[simp] theorem State.setPins_callers (j : Nat) (v : Byte) (s : State) :
    (s.setPins j v).callers = s.callers := rfl
@[simp] theorem State.setPins_active (j : Nat) (v : Byte) (s : State) :
    (s.setPins j v).active = s.active := rfl
@[simp] theorem State.setPins_schedule (j : Nat) (v : Byte) (s : State) :
    (s.setPins j v).schedule = s.schedule := rfl
@[simp] theorem State.setPins_trace (j : Nat) (v : Byte) (s : State) :
    (s.setPins j v).trace = s.trace := rfl
@[simp] theorem State.setPins_draws (j : Nat) (v : Byte) (s : State) :
    (s.setPins j v).draws = s.draws := rfl

/-! ### `State.powerCycle` -/

@[simp] theorem State.powerCycle_params (j : Nat) (s : State) :
    (s.powerCycle j).params = s.params := rfl
@[simp] theorem State.powerCycle_engine (j : Nat) (s : State) :
    (s.powerCycle j).engine = s.engine := rfl
@[simp] theorem State.powerCycle_bus (j : Nat) (s : State) :
    (s.powerCycle j).bus = s.bus := rfl
@[simp] theorem State.powerCycle_chips (j : Nat) (s : State) :
    (s.powerCycle j).chips = s.chips.modify j (Chip.powerCycle (Config.draw s.draws) (Config.draw (s.draws + 1))) := rfl
@[simp] theorem State.powerCycle_callers (j : Nat) (s : State) :
    (s.powerCycle j).callers = s.callers := rfl
@[simp] theorem State.powerCycle_active (j : Nat) (s : State) :
    (s.powerCycle j).active = s.active := rfl
@[simp] theorem State.powerCycle_schedule (j : Nat) (s : State) :
    (s.powerCycle j).schedule = s.schedule := rfl
@[simp] theorem State.powerCycle_trace (j : Nat) (s : State) :
    (s.powerCycle j).trace = s.trace := rfl
@[simp] theorem State.powerCycle_draws (j : Nat) (s : State) :
    (s.powerCycle j).draws = s.draws + 2 := rfl

/-! ### `State.construct` -/

@[simp] theorem State.construct_params (ci : ConstructInputs) (s : State) :
    (s.construct ci).params = s.params := rfl
@[simp] theorem State.construct_engine (ci : ConstructInputs) (s : State) :
    (s.construct ci).engine = Engine.construct s.params ci := rfl
@[simp] theorem State.construct_bus (ci : ConstructInputs) (s : State) :
    (s.construct ci).bus = Bus.released := rfl
@[simp] theorem State.construct_chips (ci : ConstructInputs) (s : State) :
    (s.construct ci).chips = s.chips := rfl
@[simp] theorem State.construct_callers (ci : ConstructInputs) (s : State) :
    (s.construct ci).callers = s.callers.map fun c => { c with flight := none } := rfl
@[simp] theorem State.construct_active (ci : ConstructInputs) (s : State) :
    (s.construct ci).active = s.active := rfl
@[simp] theorem State.construct_schedule (ci : ConstructInputs) (s : State) :
    (s.construct ci).schedule = s.schedule := rfl
@[simp] theorem State.construct_trace (ci : ConstructInputs) (s : State) :
    (s.construct ci).trace = s.trace := rfl
@[simp] theorem State.construct_draws (ci : ConstructInputs) (s : State) :
    (s.construct ci).draws = s.draws := rfl

/-! ### `State.xfer` -/

@[simp] theorem State.xfer_fst (tx : Byte) (s : State) : (s.xfer tx).1 = s.rxByte := rfl
@[simp] theorem State.xfer_params (tx : Byte) (s : State) :
    (s.xfer tx).2.params = s.params := rfl
@[simp] theorem State.xfer_engine (tx : Byte) (s : State) :
    (s.xfer tx).2.engine = s.engine := rfl
@[simp] theorem State.xfer_bus (tx : Byte) (s : State) :
    (s.xfer tx).2.bus = s.bus := rfl
@[simp] theorem State.xfer_chips (tx : Byte) (s : State) :
    (s.xfer tx).2.chips = s.chips.map (fun c => c.accept tx) := rfl
@[simp] theorem State.xfer_callers (tx : Byte) (s : State) :
    (s.xfer tx).2.callers = s.callers := rfl
@[simp] theorem State.xfer_active (tx : Byte) (s : State) :
    (s.xfer tx).2.active = s.active := rfl
@[simp] theorem State.xfer_schedule (tx : Byte) (s : State) :
    (s.xfer tx).2.schedule = s.schedule := rfl
@[simp] theorem State.xfer_trace (tx : Byte) (s : State) :
    (s.xfer tx).2.trace = s.trace ++ [.xfer tx] := rfl
@[simp] theorem State.xfer_draws (tx : Byte) (s : State) :
    (s.xfer tx).2.draws = s.draws + 1 := rfl

end Sys2Proof.Machine
end

