-- ==== Sys2Proof/Laws/Chip.lean ====
section
/-! SUPPORT. What a whole frame does at one chip: the byte-by-byte chip of 20_memory.md R51 to R54 in closed form. -/
namespace Sys2Proof.Machine

/-- A frame on another line does not reach the chip. -/
theorem Chip.foldl_accept_idle (c : Chip) (bytes : List Byte) (h : c.frame = .idle) :
    bytes.foldl Chip.accept c = c := by
  induction bytes with
  | nil => rfl
  | cons b bytes ih => simpa [Chip.accept, h] using ih

/-- A chip that was not selected ignores the rest of the frame. -/
theorem Chip.foldl_accept_ignored (c : Chip) (bytes : List Byte) (h : c.frame = .ignored) :
    bytes.foldl Chip.accept c = c := by
  induction bytes with
  | nil => rfl
  | cons b bytes ih => simpa [Chip.accept, h] using ih

/-- Whether the chip is selected depends on its registers and pins alone. -/
theorem Chip.selectedBy_frame (c : Chip) (f : FramePos) (b : Byte) :
    ({ c with frame := f } : Chip).selectedBy b = c.selectedBy b := rfl

/-- Whether a frame reaches the chip depends on its line, registers and pins alone. -/
theorem Chip.reachedBy_frame (c : Chip) (f : FramePos) (line b : Byte) :
    ({ c with frame := f } : Chip).reachedBy line b = c.reachedBy line b := rfl

theorem Chip.reachedBy_iff (c : Chip) (line b : Byte) :
    c.reachedBy line b = true ↔ c.line = line ∧ c.selectedBy b = true := by
  simp [Chip.reachedBy]

/-- A frame that does not reach the chip changes nothing (R51). -/
theorem Chip.receive_unreached (c : Chip) (line b0 : Byte) (bytes : List Byte)
    (h : c.reachedBy line b0 = false) : c.receive line (b0 :: bytes) = { c with frame := .idle } := by
  by_cases hl : c.line = line
  · have hs : c.selectedBy b0 = false := by
      cases hs : c.selectedBy b0
      · rfl
      · rw [(Chip.reachedBy_iff c line b0).mpr ⟨hl, hs⟩] at h; simp at h
    subst hl
    simp only [Chip.receive, Chip.csAssert, if_true, List.foldl_cons, Chip.accept, Chip.selectedBy_frame, hs]
    rw [Chip.foldl_accept_ignored _ _ (by simp)]
    simp [Chip.csDeassert]
  · simp only [Chip.receive, Chip.csAssert, hl, if_false]
    rw [Chip.foldl_accept_idle _ _ rfl]
    rfl

/-- The chip's state after the opcode byte of a frame that reaches it. -/
theorem Chip.accept_opcode (c : Chip) (line b0 : Byte) (h : c.reachedBy line b0 = true) :
    (c.csAssert line).accept b0 = { c with frame := .address (b0.getLsbD 0) } := by
  obtain ⟨hl, hs⟩ := (Chip.reachedBy_iff c line b0).mp h
  subst hl
  simp [Chip.csAssert, Chip.accept, Chip.selectedBy_frame, hs]

/-- A frame of one byte changes nothing (R51). -/
theorem Chip.receive_one (c : Chip) (line b0 : Byte) : c.receive line [b0] = { c with frame := .idle } := by
  cases h : c.reachedBy line b0
  · exact Chip.receive_unreached c line b0 [] h
  · simp only [Chip.receive, List.foldl_cons, List.foldl_nil, Chip.accept_opcode c line b0 h]
    rfl

/-- A write frame of one data byte at a chip it reaches (R52). -/
theorem Chip.receive_write (c : Chip) (line b0 addr v : Byte) (h : c.reachedBy line b0 = true)
    (hw : b0.getLsbD 0 = false) :
    c.receive line [b0, addr, v] = { ({ c with ptr := addr } : Chip).writeData v with frame := .idle } := by
  simp only [Chip.receive, List.foldl_cons, List.foldl_nil, Chip.accept_opcode c line b0 h, hw]
  rfl

/-- A burst at a chip it reaches: the data bytes one after another (R52). -/
theorem Chip.receive_burst (c : Chip) (line b0 addr : Byte) (data : List Byte) (h : c.reachedBy line b0 = true)
    (hw : b0.getLsbD 0 = false) :
    c.receive line (b0 :: addr :: data) =
      { data.foldl Chip.writeData { c with ptr := addr } with frame := .idle } := by
  simp only [Chip.receive, List.foldl_cons, Chip.accept_opcode c line b0 h, hw]
  have key : ∀ (data : List Byte) (d : Chip), d.frame = .data false →
      (data.foldl Chip.accept d).csDeassert = { data.foldl Chip.writeData d with frame := .idle } := by
    intro data
    induction data with
    | nil => intro d _; rfl
    | cons v data ih =>
      intro d hd
      have : d.accept v = d.writeData v := by simp [Chip.accept, hd]
      simp only [List.foldl_cons, this]
      exact ih _ (by simpa [Chip.writeData] using hd)
  have key2 : ∀ (data : List Byte) (d : Chip) (f : FramePos),
      ({ data.foldl Chip.writeData { d with frame := f } with frame := FramePos.idle } : Chip) =
        { data.foldl Chip.writeData d with frame := .idle } := by
    intro data
    induction data with
    | nil => intro d f; rfl
    | cons v data ih => intro d f; exact ih (d.writeData v) f
  show (data.foldl Chip.accept { c with ptr := addr, frame := .data false }).csDeassert = _
  rw [key data _ rfl]
  exact key2 data { c with ptr := addr } (.data false)

/-- A read frame at a chip it reaches: only the pointer moves (R53). -/
theorem Chip.receive_read (c : Chip) (line b0 addr v : Byte) (h : c.reachedBy line b0 = true)
    (hr : b0.getLsbD 0 = true) :
    c.receive line [b0, addr, v] = { c with ptr := nextPointer addr, frame := .idle } := by
  simp only [Chip.receive, List.foldl_cons, List.foldl_nil, Chip.accept_opcode c line b0 h, hr]
  rfl

/-- What a chip answers in the data phase of a frame: something exactly when the frame reaches it and reads (R53). -/
theorem Chip.answer_dataPhase (c : Chip) (line b0 addr : Byte) :
    (((c.csAssert line).accept b0).accept addr).answer =
      if c.reachedBy line b0 && b0.getLsbD 0 then c.readByte addr else none := by
  cases h : c.reachedBy line b0
  · by_cases hl : c.line = line
    · have hs : c.selectedBy b0 = false := by simpa [Chip.reachedBy, hl] using h
      subst hl
      simp [Chip.csAssert, Chip.accept, Chip.selectedBy_frame, hs, Chip.answer]
    · simp [Chip.csAssert, hl, Chip.accept, Chip.answer]
  · rw [Chip.accept_opcode c line b0 h]
    cases b0.getLsbD 0 <;> rfl

/-- Every place a data byte can be stored is a storage address. -/
theorem storeAddress_isStorage (p : Byte) (a : Nat) (h : storeAddress p = some a) : isStorage a = true := by
  simp only [storeAddress] at h
  split at h
  · obtain rfl := Option.some.inj h; rfl
  · split at h
    · next h9 hle =>
      obtain rfl := Option.some.inj h
      have : p.toNat ≠ 9 := fun e => h9 (BitVec.eq_of_toNat_eq e)
      simp [isStorage, hle, this]
    · simp at h

/-- A data byte keeps the register file's canonical form. -/
theorem Chip.writeData_wf (c : Chip) (v : Byte) (h : c.regs.wf = true) : (c.writeData v).regs.wf = true := by
  simp only [Chip.writeData]
  split
  · exact Memory.write_wf _ _ _ h
  · exact h

/-- A data byte keeps the listed addresses storage addresses. -/
theorem Chip.writeData_inSpace (c : Chip) (v : Byte) (h : c.regs.inSpace = true) :
    (c.writeData v).regs.inSpace = true := by
  simp only [Chip.writeData]
  split
  · next a ha => exact Memory.write_inSpace _ _ _ h (storeAddress_isStorage _ _ ha)
  · exact h

/-- The bytes a data byte is stored at and those it leaves alone. -/
theorem Chip.writeData_read (c : Chip) (v : Byte) (a : Nat) (h : c.regs.wf = true) :
    (c.writeData v).regs.read a = if storeAddress c.ptr = some a then v else c.regs.read a := by
  simp only [Chip.writeData]
  split
  · next b hb =>
    by_cases hab : a = b
    · subst hab; rw [if_pos hb]; exact Memory.read_write_same _ _ _ h
    · rw [if_neg (by rw [hb]; simpa using Ne.symm hab)]
      exact Memory.read_write_other _ _ _ _ hab
  · next hn => rw [if_neg (by rw [hn]; simp)]

end Sys2Proof.Machine
end

