-- ==== Sys2Proof/Laws/Ops.lean ====
section
/-! SUPPORT. What each shared operation can do, said once. -/
namespace Sys2Proof.Machine
open Sys2Proof.Safety

/-- The bytes of a frame, in closed form. -/
theorem State.xferAll_snd (bytes : List Byte) (rx : Byte) (s : State) :
    (s.xferAll bytes rx).2 =
      { s with
        trace := s.trace ++ bytes.map Event.xfer
        chips := s.chips.map fun c => bytes.foldl Chip.accept c
        draws := s.draws + bytes.length } := by
  induction bytes generalizing rx s with
  | nil => simp [State.xferAll]
  | cons b bytes ih =>
    simp only [State.xferAll, ih]
    simp only [State.xfer, State.emit, List.map_map, List.append_assoc, List.map_cons, List.foldl_cons,
      List.length_cons, List.singleton_append, State.mk.injEq, true_and]
    exact ⟨rfl, by omega⟩

/-- One transaction, in closed form (20_memory.md R36 to R38): its bracketed events, the frame at every chip, and the
transaction closed. -/
theorem State.transact_snd (bytes : List Byte) (s : State) :
    (s.transact bytes).2 =
      { s with
        trace := s.trace ++ frameEvents s.engine bytes
        chips := s.chips.map (Chip.receive s.engine.csPin bytes)
        draws := s.draws + bytes.length
        bus := { s.bus with asserted := none, txnOpen := false } } := by
  simp only [State.transact, State.xferAll_snd]
  simp [State.csDeassert, State.txnEnd, State.csAssert, State.txnBegin, State.emit, frameEvents,
    Function.comp_def, Chip.receive]

/-- What the data phase of a three-byte read frame receives (R37, R53, R57). -/
theorem State.transact_read_fst (b0 addr v : Byte) (s : State) (hr : b0.getLsbD 0 = true) :
    (s.transact [b0, addr, v]).1 = received s b0 addr := by
  have h2 : ∀ s' : State, (s'.xferAll [b0, addr, v] 0).1 =
      ((s'.xfer b0).2.xfer addr).2.rxByte := fun s' => rfl
  simp only [State.transact, h2, State.rxByte, State.xfer_chips, State.csAssert_chips, State.txnBegin_chips,
    State.xfer_draws, State.csAssert_draws, State.txnBegin_draws, List.filterMap_map, Function.comp_def,
    Chip.answer_dataPhase, hr, Bool.and_true, State.txnBegin_engine, received]
  have key : ∀ (d : Byte) (cs : List Chip),
      (match cs.filterMap (fun c => if c.reachedBy s.engine.csPin b0 = true then c.readByte addr else none) with
        | [b] => b
        | _ => d) =
      (match cs.filter (Chip.reachedBy s.engine.csPin b0) with
        | [c] => (c.readByte addr).getD d
        | _ => d) := by
    intro d cs
    have e : cs.filterMap (fun c => if c.reachedBy s.engine.csPin b0 = true then c.readByte addr else none) =
        (cs.filter (Chip.reachedBy s.engine.csPin b0)).filterMap (fun c => c.readByte addr) := by
      rw [List.filterMap_filter]
    rw [e]
    have allOrNone : ∀ c d : Chip, (c.readByte addr).isSome = (d.readByte addr).isSome := by
      intro c d
      simp only [Chip.readByte]
      split
      · rfl
      · split <;> rfl
    match cs.filter (Chip.reachedBy s.engine.csPin b0) with
    | [] => rfl
    | [c] => cases h : c.readByte addr <;> simp [h]
    | c :: c' :: rest =>
      have h' := allOrNone c c'
      cases h : c.readByte addr with
      | some x =>
        rw [h] at h'
        obtain ⟨y, hy⟩ := Option.isSome_iff_exists.mp h'.symm
        simp [h, hy]
      | none =>
        have hn : ∀ d : Chip, d.readByte addr = none := fun d => by
          have := allOrNone c d
          rw [h] at this
          simpa using this.symm
        simp [hn]
  exact key _ _

/-- An opcode of the stored form has bit 0 clear, and the read-opcode has it set (R39). -/
theorem readOpcode_bit0 (b : Byte) : (readOpcode b).getLsbD 0 = true := by
  simp [readOpcode]

/-- `MemRead` receives what `ownRead` says (R37). -/
theorem State.memRead_fst (addr : Byte) (s : State) : (s.memRead addr).1 = ownRead s addr :=
  State.transact_read_fst _ _ _ s (readOpcode_bit0 _)

/-- An operation other than BEGIN, when it has a meaning. -/
theorem State.whenBegun_of_ready {s : State} (h : Ready s) (k : Host.Outcome State Fault Refusal) :
    s.whenBegun k = k := by
  simp [State.whenBegun, h.params, h.begun]

/-- An operation other than BEGIN answers a next state only when it has a meaning. -/
theorem State.whenBegun_next {s t : State} {k : Host.Outcome State Fault Refusal} (h : s.whenBegun k = .next t) :
    Ready s ∧ k = .next t := by
  simp only [State.whenBegun] at h
  split at h
  · split at h
    · next hp hb => exact ⟨⟨hp, hb⟩, h⟩
    · cases h
  · cases h

/-- BEGIN answers a next state only under admitted parameters. -/
theorem State.whenConfigured_next {s t : State} {k : Host.Outcome State Fault Refusal}
    (h : s.whenConfigured k = .next t) : paramsOk s.params = true ∧ k = .next t := by
  simp only [State.whenConfigured] at h
  split at h
  · next hp => exact ⟨hp, h⟩
  · cases h

/-- The end of an operation, at the callers. -/
theorem State.complete_callerBecomes (r : Option Byte) (s : State) :
    CallerBecomes (completedWith r) s (s.complete r) where
  active c h := by simp [h, completedWith]
  others k h := by simp [Ne.symm h]
  count := by simp

/-- An operation going on, at the callers. -/
theorem State.goOn_callerBecomes (op : Instr) (p : Phase) (s : State) :
    CallerBecomes (goingOn op p) s (s.goOn op p) where
  active c h := by simp [h, goingOn]
  others k h := by simp [Ne.symm h]
  count := by simp

/-- Only the list of callers and the active one decide the phase. -/
theorem State.phase_congr {s t : State} (hc : t.callers = s.callers) (ha : t.active = s.active) :
    t.phase = s.phase := by
  simp only [State.phase, hc, ha]

/-- What a caller's turn can find (60_exceptions.md R151). -/
theorem State.fetch_run {k : Nat} {s s' : State} {i : Instr} (h : s.fetch k = .run i s') :
    ∃ c, s.callers[k]? = some c ∧ s.blocked k i = false ∧
      ((∃ p, c.flight = some { op := i, phase := p } ∧ s' = s) ∨
        (c.flight = none ∧ ∃ w ws, c.pending = w :: ws ∧ decode w = .ok i ∧ s' = s.accept k i)) := by
  simp only [State.fetch] at h
  split at h
  · cases h
  · next c hc =>
    refine ⟨c, hc, ?_⟩
    split at h
    · next f hf =>
      split at h
      · cases h
      · next hb =>
        injection h with h1 h2
        subst h1 h2
        exact ⟨by simpa using hb, .inl ⟨f.phase, hf, rfl⟩⟩
    · next hf =>
      split at h
      · cases h
      · next w ws hw =>
        split at h
        · cases h
        · next j hj =>
          split at h
          · cases h
          · next hb =>
            injection h with h1 h2
            subst h1 h2
            exact ⟨by simpa using hb, .inr ⟨hf, w, ws, hw, hj, rfl⟩⟩

end Sys2Proof.Machine
end

