-- ==== Sys2Proof/Laws/Exec.lean ====
section
/-! SUPPORT. What one `exec` can do, said once: BEGIN, nothing, one transaction that completes the instruction, or one
transaction after which a composite operation goes on. -/
namespace Sys2Proof.Machine
open Sys2Proof.Safety

/-- The state in which BEGIN completes (40_lifecycle.md R86). -/
def State.begunState (s : State) : State :=
  { (if s.engine.haen then s.pinOutput.memWrite regIOCON haenMask else s.pinOutput) with engine.begun := true }

/-- An opcode byte the engine sends: its own for a write or for a read (30_encoding.md R62). -/
def OwnOpcode (s : State) (b0 : Byte) : Prop := b0 = s.engine.opcode ∨ b0 = readOpcode s.engine.opcode

/-- One transaction and then the end of the instruction. -/
def Completed (i : Instr) (s t : State) : Prop :=
  ∃ b0 rest r, (isOperation i = true → Ready s ∧ OwnOpcode s b0) ∧ t = (s.transact (b0 :: rest)).2.complete r

/-- One transaction after which the operation is still in flight. -/
def WentOn (i : Instr) (s t : State) : Prop :=
  ∃ b0 rest p, isOperation i = true ∧ Ready s ∧ OwnOpcode s b0 ∧
    flightInv s.params { op := i, phase := p } = true ∧ t = (s.transact (b0 :: rest)).2.goOn i p

theorem State.writeOnly_next {addr v : Byte} {s t : State} (i : Instr) (h : s.writeOnly addr v = .next t) :
    Completed i s t := by
  obtain ⟨hr, h⟩ := State.whenBegun_next h
  obtain rfl := Host.Outcome.next.inj h
  exact ⟨_, _, _, fun _ => ⟨hr, .inl rfl⟩, rfl⟩

theorem State.readOnly_next {addr : Byte} {view : Byte → Byte} {s t : State} (i : Instr)
    (h : s.readOnly addr view = .next t) : Completed i s t := by
  obtain ⟨hr, h⟩ := State.whenBegun_next h
  obtain rfl := Host.Outcome.next.inj h
  exact ⟨_, _, _, fun _ => ⟨hr, .inr rfl⟩, rfl⟩

theorem State.ignored_next {r : Option Byte} {s t : State} (h : s.ignored r = .next t) :
    Ready s ∧ t = s.complete r := by
  obtain ⟨hr, h⟩ := State.whenBegun_next h
  exact ⟨hr, (Host.Outcome.next.inj h).symm⟩

theorem State.pairRead_next {addr : Byte} {i : Instr} {f : Byte → Phase} {s t : State}
    (h : s.pairRead i addr f = .next t) (hi : isOperation i = true)
    (hf : ∀ b, flightInv s.params { op := i, phase := f b } = true) : WentOn i s t := by
  obtain ⟨hr, h⟩ := State.whenBegun_next h
  obtain rfl := Host.Outcome.next.inj h
  exact ⟨_, _, _, hi, hr, .inr rfl, hf _, rfl⟩

/-- The four ways in which an instruction answers a next state. -/
theorem exec_next {i : Instr} {s t : State} (h : exec i s = .next t) :
    (isBegin i = true ∧ paramsOk s.params = true ∧ t = s.begunState.complete none) ∨
    (isBegin i = false ∧ Ready s ∧ ∃ r, t = s.complete r) ∨
    (isBegin i = false ∧ Completed i s t) ∨
    (isBegin i = false ∧ WentOn i s t) := by
  cases i with
  | begin a b =>
    obtain ⟨hp, h⟩ := State.whenConfigured_next (k := State.finish none s.begunState) h
    exact .inl ⟨rfl, hp, (Host.Outcome.next.inj h).symm⟩
  | reset a b =>
    obtain ⟨hr, h⟩ := State.whenBegun_next h
    obtain rfl := Host.Outcome.next.inj h
    exact .inr (.inr (.inl ⟨rfl, _, _, _, fun _ => ⟨hr, .inl rfl⟩, rfl⟩))
  | readpin pin b =>
    simp only [exec, execReadpin] at h
    split at h
    · exact .inr (.inr (.inl ⟨rfl, State.readOnly_next _ h⟩))
    · exact .inr (.inl ⟨rfl, (State.ignored_next h).1, _, (State.ignored_next h).2⟩)
  | writepin pin st =>
    simp only [exec, execWritepin] at h
    split at h
    · next hp =>
      split at h
      · exact .inr (.inr (.inr ⟨rfl, State.pairRead_next h rfl fun _ => hp⟩))
      · exact .inr (.inr (.inl ⟨rfl, State.writeOnly_next _ h⟩))
      · exact .inr (.inr (.inr ⟨rfl, State.pairRead_next h rfl fun _ => hp⟩))
      · exact .inr (.inr (.inl ⟨rfl, State.writeOnly_next _ h⟩))
    · exact .inr (.inl ⟨rfl, (State.ignored_next h).1, _, (State.ignored_next h).2⟩)
  | setpinmode pin mode =>
    simp only [exec, execSetpinmode] at h
    split at h
    · next hp =>
      split at h
      · exact .inr (.inr (.inr ⟨rfl, State.pairRead_next h rfl fun _ => hp⟩))
      · obtain ⟨hr, h⟩ := State.whenBegun_next h
        obtain rfl := Host.Outcome.next.inj h
        exact .inr (.inr (.inr ⟨rfl, _, _, .read1, rfl, hr, .inl rfl, hp, rfl⟩))
      · exact .inr (.inr (.inr ⟨rfl, State.pairRead_next h rfl fun _ => hp⟩))
      · exact .inr (.inr (.inl ⟨rfl, State.writeOnly_next _ h⟩))
    · exact .inr (.inl ⟨rfl, (State.ignored_next h).1, _, (State.ignored_next h).2⟩)
  | setoutputstates byte b => exact .inr (.inr (.inl ⟨rfl, State.writeOnly_next _ h⟩))
  | getoutputstates a b => exact .inr (.inr (.inl ⟨rfl, State.readOnly_next _ h⟩))
  | setpinmodes byte b => exact .inr (.inr (.inl ⟨rfl, State.writeOnly_next _ h⟩))
  | getpinmodes a b => exact .inr (.inr (.inl ⟨rfl, State.readOnly_next _ h⟩))
  | enablepullups byte b => exact .inr (.inr (.inl ⟨rfl, State.writeOnly_next _ h⟩))
  | getenabledpullups a b => exact .inr (.inr (.inl ⟨rfl, State.readOnly_next _ h⟩))
  | writeregister address data => exact .inr (.inr (.inl ⟨rfl, State.writeOnly_next _ h⟩))
  | readregister address b => exact .inr (.inr (.inl ⟨rfl, State.readOnly_next _ h⟩))
  | reservedD a b => cases h
  | reservedE a b => cases h
  | reservedF a b => cases h
  | opcodeByte aa read =>
    obtain rfl := Host.Outcome.next.inj h
    exact .inr (.inr (.inl ⟨rfl, _, _, _, fun hi => Bool.noConfusion hi, rfl⟩))
  | writeFrame aa address data =>
    obtain rfl := Host.Outcome.next.inj h
    exact .inr (.inr (.inl ⟨rfl, _, _, _, fun hi => Bool.noConfusion hi, rfl⟩))
  | readFrame aa address dummy =>
    obtain rfl := Host.Outcome.next.inj h
    exact .inr (.inr (.inl ⟨rfl, _, _, _, fun hi => Bool.noConfusion hi, rfl⟩))
  | resetBurstFrame aa haen ndata =>
    obtain rfl := Host.Outcome.next.inj h
    exact .inr (.inr (.inl ⟨rfl, _, _, _, fun hi => Bool.noConfusion hi, rfl⟩))

end Sys2Proof.Machine
end

