-- ==== Sys2Proof/Laws/PerInstr.lean ====
section
/-! SUPPORT. A statement about every instruction as syntax: how many bytes it stands for. -/
namespace Sys2Proof.Laws.EncodedLength
open Sys2Proof

/-- A well-formed instruction takes one byte on its port (OPCODE_BYTE), three (the command words and the two frames),
or twelve or thirteen (the burst of RESET): 30_encoding.md R60, R63 to R65, R71; log 1. -/
def Statement (i : Instr) : Prop := i.wellFormed = true → (encode i).length ∈ [1, 3, 12, 13]

theorem begin (a b : Byte) : Statement (.begin a b) := fun _ => by simp [encode, encodeCommand]
theorem reset (a b : Byte) : Statement (.reset a b) := fun _ => by simp [encode, encodeCommand]
theorem readpin (pin b : Byte) : Statement (.readpin pin b) := fun _ => by simp [encode, encodeCommand]
theorem writepin (pin state : Byte) : Statement (.writepin pin state) := fun _ => by simp [encode, encodeCommand]
theorem setpinmode (pin mode : Byte) : Statement (.setpinmode pin mode) := fun _ => by simp [encode, encodeCommand]
theorem setoutputstates (byte b : Byte) : Statement (.setoutputstates byte b) := fun _ => by simp [encode, encodeCommand]
theorem getoutputstates (a b : Byte) : Statement (.getoutputstates a b) := fun _ => by simp [encode, encodeCommand]
theorem setpinmodes (byte b : Byte) : Statement (.setpinmodes byte b) := fun _ => by simp [encode, encodeCommand]
theorem getpinmodes (a b : Byte) : Statement (.getpinmodes a b) := fun _ => by simp [encode, encodeCommand]
theorem enablepullups (byte b : Byte) : Statement (.enablepullups byte b) := fun _ => by simp [encode, encodeCommand]
theorem getenabledpullups (a b : Byte) : Statement (.getenabledpullups a b) := fun _ => by simp [encode, encodeCommand]
theorem writeregister (address data : Byte) : Statement (.writeregister address data) := fun _ => by simp [encode, encodeCommand]
theorem readregister (address b : Byte) : Statement (.readregister address b) := fun _ => by simp [encode, encodeCommand]
theorem reservedD (a b : Byte) : Statement (.reservedD a b) := fun _ => by simp [encode, encodeCommand]
theorem reservedE (a b : Byte) : Statement (.reservedE a b) := fun _ => by simp [encode, encodeCommand]
theorem reservedF (a b : Byte) : Statement (.reservedF a b) := fun _ => by simp [encode, encodeCommand]
theorem opcodeByte (aa : BitVec 2) (read : Bool) : Statement (.opcodeByte aa read) := fun _ => by simp [encode]
theorem writeFrame (aa : BitVec 2) (address data : Byte) : Statement (.writeFrame aa address data) := fun _ => by
  simp [encode]
theorem readFrame (aa : BitVec 2) (address dummy : Byte) : Statement (.readFrame aa address dummy) := fun _ => by
  simp [encode]
theorem resetBurstFrame (aa : BitVec 2) (haen : Bool) (ndata : Nat) : Statement (.resetBurstFrame aa haen ndata) := by
  intro h
  rcases (by simpa [Instr.wellFormed] using h : ndata = 10 ∨ ndata = 11) with rfl | rfl <;>
    simp [encode, Machine.resetBytes]

end Sys2Proof.Laws.EncodedLength
end

