-- ==== Sys2Proof/Tests/Slice0.lean ====
section
/-! SUPPORT. The model's own tests. The expected bytes are those of 95_test_vectors.md, whose name for the vector (L2,
Q5, W1, ...) stands beside each; a test without one is worked out by hand from the rule it names. After them, for every
statement with hypotheses, a state and operands that meet all of them. -/
namespace Sys2Proof.Tests
open Sys2Proof Sys2Proof.Machine Sys2Proof.Safety

/-! ### Benches -/

/-- One engine on line 10 after BEGIN, and one chip on that line. -/
def bench (haen : Bool) (device : Byte) (hwaddr : BitVec 2) (regs : Memory) (pins : Byte) : State :=
  { State.reset with
    engine := { Engine.construct {} { csPin := 10, deviceAddr := device, haen := haen } with begun := true }
    chips := [{ line := 10, hwaddr := hwaddr, regs := regs, ptr := 0x33, pins := pins, frame := .idle }] }

/-- The plain bench: device address 0, no hardware addressing. -/
def plain (regs : Memory) (pins : Byte) : State := bench false 0 0 regs pins

/-- The active caller stands at this phase of an operation. -/
def atPhase (op : Instr) (p : Phase) (s : State) : State :=
  { s with callers := [{ pending := [], flight := some { op := op, phase := p }, result := none, completed := 0 }] }

/-- What one `exec` shows: the bytes sent, the result and the phase of caller 0, and the first chip's registers. -/
structure Shown where
  sent : List Byte
  result : Option Byte
  phase : Option Phase
  regs : Memory
deriving DecidableEq, Repr

/-- What an outcome shows, if it is a next state. -/
def shown (o : Host.Outcome State Fault Refusal) : Option Shown :=
  match o with
  | .next t => some
      { sent := t.trace.filterMap fun e => match e with
          | .xfer tx => some tx
          | _ => none
        result := (t.callers.head?.map Caller.result).getD none
        phase := (t.callers.head?.bind Caller.flight).map Flight.phase
        regs := (t.chips.head?.map Chip.regs).getD [] }
  | .fault _ => none
  | .refused _ => none

/-- Why an outcome is a refusal. -/
def refusal (o : Host.Outcome State Fault Refusal) : Option Refusal :=
  match o with
  | .next _ => none
  | .fault _ => none
  | .refused r => some r

/-! ### Well-formedness: ill-formed terms are refused -/

theorem test_burst_of_9_is_ill_formed : (Instr.resetBurstFrame 0 false 9).wellFormed = false := by decide
theorem test_burst_of_12_is_ill_formed : (Instr.resetBurstFrame 3 true 12).wellFormed = false := by decide
theorem test_bursts_of_10_and_11_are_well_formed :
    (Instr.resetBurstFrame 0 false 10).wellFormed = true ∧ (Instr.resetBurstFrame 3 true 11).wellFormed = true := by
  decide
theorem test_pin_above_7_is_well_formed : (Instr.writepin 0xFF 0x00).wellFormed = true := by decide

/-! ### Decoding: words written out from the encodings of 30_encoding.md (the vectors of 2.7) -/

theorem test_decode_begin : decode [0b00000000, 0b00000000, 0b00000000] = .ok (.begin 0 0) := by decide
theorem test_decode_reset : decode [0b00000001, 0b00000000, 0b00000000] = .ok (.reset 0 0) := by decide
theorem test_decode_readpin : decode [0b00000010, 0b00000101, 0b00000000] = .ok (.readpin 5 0) := by decide
theorem test_decode_writepin : decode [0b00000011, 0b00000011, 0b00000001] = .ok (.writepin 3 1) := by decide
theorem test_decode_setpinmode : decode [0b00000100, 0b00000010, 0b00000001] = .ok (.setpinmode 2 1) := by decide
theorem test_decode_setoutputstates : decode [0b00000101, 0b10100101, 0b00000000] = .ok (.setoutputstates 0xA5 0) := by
  decide
theorem test_decode_getoutputstates : decode [0b00000110, 0b10101011, 0b11001101] = .ok (.getoutputstates 0xAB 0xCD) :=
  by decide
theorem test_decode_setpinmodes : decode [0b00000111, 0b00001111, 0b00000000] = .ok (.setpinmodes 0x0F 0) := by decide
theorem test_decode_getpinmodes : decode [0b00001000, 0b00000000, 0b00000000] = .ok (.getpinmodes 0 0) := by decide
theorem test_decode_enablepullups : decode [0b00001001, 0b10000001, 0b00000000] = .ok (.enablepullups 0x81 0) := by
  decide
theorem test_decode_getenabledpullups : decode [0b00001010, 0b00000000, 0b00000000] = .ok (.getenabledpullups 0 0) := by
  decide
theorem test_decode_writeregister : decode [0b00001011, 0b00000001, 0b11110000] = .ok (.writeregister 0x01 0xF0) := by
  decide
theorem test_decode_readregister : decode [0b00001100, 0b00000101, 0b00000000] = .ok (.readregister 0x05 0) := by decide
theorem test_decode_reservedD : decode [0b00001101, 0b00000000, 0b00000000] = .ok (.reservedD 0 0) := by decide
theorem test_decode_reservedE : decode [0b00001110, 0b00010010, 0b00110100] = .ok (.reservedE 0x12 0x34) := by decide
theorem test_decode_reservedF : decode [0b00001111, 0b11111111, 0b11111111] = .ok (.reservedF 0xFF 0xFF) := by decide
/-- The opcode bytes of T7 and 2.1. -/
theorem test_decode_opcodeByte :
    decode [0b01000110] = .ok (.opcodeByte 3 false) ∧ decode [0b01000011] = .ok (.opcodeByte 1 true) := by decide
/-- T8: write `46 0A 81`. -/
theorem test_decode_writeFrame : decode [0b01000110, 0b00001010, 0b10000001] = .ok (.writeFrame 3 0x0A 0x81) := by decide
/-- T8: read `47 09 00`. -/
theorem test_decode_readFrame : decode [0b01000111, 0b00001001, 0b00000000] = .ok (.readFrame 3 0x09 0x00) := by decide
/-- The bursts of L7 and L8. -/
theorem test_decode_resetBurstFrame :
    decode [0x40, 0x00, 0xFF, 0, 0, 0, 0, 0x00, 0, 0, 0, 0] = .ok (.resetBurstFrame 0 false 10) ∧
    decode [0x46, 0x00, 0xFF, 0, 0, 0, 0, 0x08, 0, 0, 0, 0] = .ok (.resetBurstFrame 3 true 10) := by decide
/-- The burst of L10, thirteen bytes. -/
theorem test_decode_longBurst :
    decode [0x42, 0x00, 0xFF, 0, 0, 0, 0, 0x08, 0, 0, 0, 0, 0] = .ok (.resetBurstFrame 1 true 11) := by decide
/-- The table's own numbering: the code of a command word and the opcode byte of a frame stand highest. -/
theorem test_decode_table_words :
    decodeTableWord 24 0xB01F0 = some (.writeregister 0x01 0xF0) ∧
    decodeTableWord 24 0x460A81 = some (.writeFrame 3 0x0A 0x81) ∧ decodeTableWord 8 0x47 = some (.opcodeByte 3 true) ∧
    decodeTableWord 96 0x4000FF000000000000000000 = some (.resetBurstFrame 0 false 10) := by decide
/-- Bytes that are no row of the table are refused by name (log 9); 2.8 lists prefixes that are not `01000`. -/
theorem test_decode_refuses :
    decode [] = .error .badLength ∧ decode [0x40, 0x00] = .error .badLength ∧ decode [0x48] = .error .badPrefix ∧
    decode [0xC0, 0x00, 0x00] = .error .badPrefix ∧ decode [0x10, 0x00, 0x00] = .error .badPrefix ∧
    decode [0x40, 0x00, 0xFF, 0x00] = .error .badBurst ∧
    decode [0x41, 0x00, 0xFF, 0, 0, 0, 0, 0x00, 0, 0, 0, 0] = .error .badPrefix := by decide

/-! ### One step of each operation -/

/-- L2: `haen` true, device address 0. -/
theorem test_begin_with_haen :
    shown (exec (.begin 0 0) { bench true 0 0 [] 0 with engine.begun := false }) =
      some ⟨[0x40, 0x05, 0x08], none, none, [(5, 0x08)]⟩ := by decide
/-- L1, L6: PIN_OUTPUT only. -/
theorem test_begin_without_haen :
    exec (.begin 0xAB 0xCD) { plain [] 0 with engine.begun := false } =
      .next { plain [] 0 with
        bus := { csOutput := true, asserted := none, txnOpen := false }
        trace := [.pinOutput 10]
        callers := [{ Caller.idle with completed := 1 }] } := rfl
/-- T4, `haen` false: chip before `12 34 56 78 9A 00 BC 00 00 -- DE`. -/
theorem test_reset :
    shown (exec (.reset 0 0) (plain [(0, 0x12), (1, 0x34), (2, 0x56), (3, 0x78), (4, 0x9A), (6, 0xBC), (10, 0xDE)] 0)) =
      some ⟨[0x40, 0x00, 0xFF, 0, 0, 0, 0, 0, 0, 0, 0, 0], none, none, []⟩ := by decide
/-- L10: `haen` true, device address 1, eleven data bytes. -/
theorem test_reset_long :
    shown (exec (.reset 0 0) { bench true 1 1 [(10, 0x55)] 0 with params.resetNdata := 11 }) =
      some ⟨[0x42, 0x00, 0xFF, 0, 0, 0, 0, 0x08, 0, 0, 0, 0, 0], none, none, [(5, 0x08)]⟩ := by decide
/-- Q9. -/
theorem test_readpin :
    shown (exec (.readpin 7 0xFF) (plain [] 0xA5)) =
      some ⟨[0x41, 0x09, 0x00], some 0x01, none, []⟩ := by decide
/-- Q10. -/
theorem test_readpin_out_of_range :
    shown (exec (.readpin 8 0) (plain [] 0xFF)) = some ⟨[], some 0x00, none, []⟩ := by decide
/-- W1, first transaction. -/
theorem test_writepin_read :
    shown (exec (.writepin 3 1) (plain [(10, 0x81)] 0)) =
      some ⟨[0x41, 0x0A, 0x00], none, some (.write0 0x81), [(10, 0x81)]⟩ := by decide
/-- W4, second transaction: the state 2 is true. -/
theorem test_writepin_write :
    shown (exec (.writepin 0 2) (atPhase (.writepin 0 2) (.write0 0x00) (plain [] 0))) =
      some ⟨[0x40, 0x0A, 0x01], none, none, [(10, 0x01)]⟩ := by decide
/-- M2, second transaction: the direction of an input with its pull-up. -/
theorem test_setpinmode_direction :
    shown (exec (.setpinmode 2 2) (atPhase (.setpinmode 2 2) (.write0 0xFB) (plain [(0, 0xFB)] 0))) =
      some ⟨[0x40, 0x00, 0xFF], none, some .read1, []⟩ := by decide
/-- M4, fourth transaction: an output clears its pull-up. -/
theorem test_setpinmode_pullup :
    shown (exec (.setpinmode 2 1) (atPhase (.setpinmode 2 1) (.write1 0x04) (plain [(0, 0xFB), (6, 0x04)] 0))) =
      some ⟨[0x40, 0x06, 0x00], none, none, [(0, 0xFB)]⟩ := by decide
/-- B2. -/
theorem test_setoutputstates :
    shown (exec (.setoutputstates 0x00 0) (bench false 3 3 [(10, 0xFF)] 0)) =
      some ⟨[0x46, 0x0A, 0x00], none, none, []⟩ := by decide
/-- B5. -/
theorem test_getoutputstates :
    shown (exec (.getoutputstates 0xAB 0xCD) (bench false 1 1 [(10, 0x3C)] 0)) =
      some ⟨[0x43, 0x0A, 0x00], some 0x3C, none, [(10, 0x3C)]⟩ := by decide
/-- B9. -/
theorem test_setpinmodes :
    shown (exec (.setpinmodes 0xA5 0) (plain [(6, 0x0F)] 0)) =
      some ⟨[0x40, 0x00, 0x5A], none, none, [(0, 0x5A), (6, 0x0F)]⟩ := by decide
/-- B12. -/
theorem test_getpinmodes :
    shown (exec (.getpinmodes 0 0) (bench false 3 0 [(0, 0x5A)] 0)) =
      some ⟨[0x47, 0x00, 0x00], some 0xA5, none, [(0, 0x5A)]⟩ := by decide
/-- B16. -/
theorem test_enablepullups :
    shown (exec (.enablepullups 0xC0 0) (plain [(0, 0xF0)] 0)) =
      some ⟨[0x40, 0x06, 0xC0], none, none, [(0, 0xF0), (6, 0xC0)]⟩ := by decide
/-- B18. -/
theorem test_getenabledpullups :
    shown (exec (.getenabledpullups 0 0) (bench false 2 2 [(6, 0xC0)] 0)) =
      some ⟨[0x45, 0x06, 0x00], some 0xC0, none, [(6, 0xC0)]⟩ := by decide
/-- X5: a write to GPIO is latched in OLAT. -/
theorem test_writeregister_gpio :
    shown (exec (.writeregister 0x09 0x3C) (plain [] 0)) =
      some ⟨[0x40, 0x09, 0x3C], none, none, [(10, 0x3C)]⟩ := by decide
/-- X7: past the register map nothing is stored. -/
theorem test_writeregister_past_the_map :
    shown (exec (.writeregister 0x0B 0x12) (plain [(1, 0x77)] 0)) =
      some ⟨[0x40, 0x0B, 0x12], none, none, [(1, 0x77)]⟩ := by decide
/-- X2. -/
theorem test_readregister :
    shown (exec (.readregister 0x05 0) (bench false 2 2 [(5, 0x08)] 0)) =
      some ⟨[0x45, 0x05, 0x00], some 0x08, none, [(5, 0x08)]⟩ := by decide
/-- X9: the dummy byte is DUMMY_BYTE and not field `b`. -/
theorem test_readregister_dummy :
    shown (exec (.readregister 0x0A 0xEE) (plain [(10, 0x55)] 0)) =
      some ⟨[0x41, 0x0A, 0x00], some 0x55, none, [(10, 0x55)]⟩ := by decide
/-- The codes of 2.7's last paragraph. -/
theorem test_reserved_codes :
    refusal (exec (.reservedD 0 0) (plain [] 0)) = some .reservedCode ∧
    refusal (exec (.reservedE 0x12 0x34) (plain [] 0)) = some .reservedCode ∧
    refusal (exec (.reservedF 0xFF 0xFF) State.reset) = some .reservedCode := by decide
/-- L12. -/
theorem test_reset_before_begin : refusal (exec (.reset 0 0) State.reset) = some .notBegun := by decide
/-- R51: a frame of the opcode byte alone leaves the chip's registers and pointer. -/
theorem test_opcodeByte :
    shown (exec (.opcodeByte 0 true) (plain [(1, 0x77)] 0)) =
      some ⟨[0x41], none, none, [(1, 0x77)]⟩ := by decide
/-- T8's write frame, at a chip that HAEN makes deaf to address 3 (2.8). -/
theorem test_writeFrame_not_selected :
    shown (exec (.writeFrame 3 0x0A 0x81) (bench true 1 1 [(5, 0x08)] 0)) =
      some ⟨[0x46, 0x0A, 0x81], none, none, [(5, 0x08)]⟩ := by decide
/-- The same frame at the chip it addresses. -/
theorem test_writeFrame :
    shown (exec (.writeFrame 3 0x0A 0x81) (bench true 1 3 [(5, 0x08)] 0)) =
      some ⟨[0x46, 0x0A, 0x81], none, none, [(5, 0x08), (10, 0x81)]⟩ := by decide
/-- R64, R54: the frame's own last byte is sent, and GPIO answers the levels. -/
theorem test_readFrame :
    shown (exec (.readFrame 0 0x09 0x5C) (plain [] 0xA5)) =
      some ⟨[0x41, 0x09, 0x5C], some 0xA5, none, []⟩ := by decide
/-- R65, L11: the burst clears OLAT through the write to GPIO. -/
theorem test_resetBurstFrame :
    shown (exec (.resetBurstFrame 0 false 10) (plain [(0, 0x00), (10, 0x55)] 0)) =
      some ⟨[0x40, 0x00, 0xFF, 0, 0, 0, 0, 0, 0, 0, 0, 0], none, none, []⟩ := by decide

/-! ### The machine around the operations -/

/-- The memory after reset lists nothing and is in canonical form. -/
theorem test_reset_memory : State.reset.chips.all (fun c => c.regs.wf && c.regs.inSpace) = true := by decide
/-- 2.3: construction with device address 7 builds the opcode 0x46. -/
theorem test_construct :
    (Engine.construct {} { csPin := 10, deviceAddr := 7, haen := true }).opcode = 0x46 := by decide
/-- The first word a machine takes after reset: BEGIN. -/
theorem test_begin_from_reset :
    (shown (step (State.reset.withFetchWord 24 0x00000))).isSome = true := by decide
/-- A word presented after BEGIN is run by the next step (B1). -/
theorem test_presented_word :
    shown (step ((plain [] 0).withFetchWord 24 0x5A500)) =
      some ⟨[0x40, 0x0A, 0xA5], none, none, [(10, 0xA5)]⟩ := by decide
/-- Bytes that are no instruction stop the step. -/
theorem test_undecodable :
    refusal (step ((plain [] 0).withFetchWord 8 0x48)) = some (.undecodable .badPrefix) := by decide

/-! ### The hypotheses of the statements can be met -/

/-- A chip that the engine of the plain bench reaches. -/
def goodChip : Chip :=
  { line := 10, hwaddr := 0, regs := [(0, 0x0F), (10, 0x81)], ptr := 0x33, pins := 0xA5, frame := .idle }

/-- A bench after BEGIN with two chips, of which the engine reaches the second: the hypotheses that most statements
share. The first hangs on another line. -/
def good : State := { plain [] 0 with chips := [{ goodChip with line := 11 }, goodChip] }

/-- `good` under HARDEN_RMW. -/
def hardened : State := { good with params.hardenRmw := true }

/-- Two callers, the first of them inside a pair. -/
def pairHeld (s : State) (words : List (List Byte)) : State :=
  { s with
    callers := [
      { Caller.idle with flight := some { op := .writepin 3 1, phase := .write0 0x81 } },
      { Caller.idle with pending := words }]
    schedule := [.caller 1] }

/-- Two callers that each have one word, and a schedule. -/
def twoCallers (w v : List Byte) (turns : List Turn) : State :=
  { good with callers := [{ Caller.idle with pending := [w] }, { Caller.idle with pending := [v] }], schedule := turns }

theorem ready_of {s : State} (h : (paramsOk s.params && s.engine.begun) = true) : Ready s := by
  simp only [Bool.and_eq_true] at h
  exact ⟨h.1, h.2⟩

theorem sound_of {s : State} (h : (legalOpcode s.engine.opcode && s.chips.all chipInv) = true) : Sound s := by
  simp only [Bool.and_eq_true, List.all_eq_true] at h
  exact ⟨h.1, h.2⟩

theorem good_ready : Ready good := ready_of (by decide)
theorem good_sound : Sound good := sound_of (by decide)
/-- One chip is reached among those there are. -/
theorem sole_of {s : State} {c d : Chip} (hs : s.chips = [d, c])
    (hc : (c.reachedBy s.engine.csPin s.engine.opcode && !d.reachedBy s.engine.csPin s.engine.opcode) = true) :
    SoleChip s 1 c := by
  simp only [Bool.and_eq_true, Bool.not_eq_true'] at hc
  refine ⟨by rw [hs]; rfl, hc.1, fun j e hj he => ?_⟩
  rw [hs] at he
  match j with
  | 0 => obtain rfl := Option.some.inj he; exact hc.2
  | 1 => exact absurd rfl hj
  | j + 2 => simp at he

theorem good_sole : SoleChip good 1 goodChip := sole_of rfl (by decide)

theorem witness_DecodeOfEncode : (Instr.resetBurstFrame 2 true 11).wellFormed = true := by decide

theorem witness_EncodeOfDecode : decode [0x0C, 0x05, 0xEE] = .ok (.readregister 0x05 0xEE) := by decide

/-- At both ends of the pins. -/
theorem witness_BitArithmetic : pinOk 0 = true ∧ pinOk 7 = true := by decide

theorem witness_MemWriteIsOneTransaction : Sound good := good_sound

/-- An answering chip at addresses it answers (the last and the special one), and a state in which none is reached. -/
theorem witness_MemReadIsOneTransaction :
    (SoleChip good 1 goodChip ∧ goodChip.readByte 0x09 = some 0xA5 ∧ goodChip.readByte 0x0A = some 0x81) ∧
    ∀ c ∈ (bench true 3 1 [(5, 0x08)] 0).chips,
      c.reachedBy (bench true 3 1 [(5, 0x08)] 0).engine.csPin
        ((bench true 3 1 [(5, 0x08)] 0).engine.opcode ||| 1) = false :=
  ⟨⟨good_sole, by decide, by decide⟩, by decide⟩

/-- Up to the last address the statement speaks of. -/
theorem witness_MemWriteSeqAutoIncrements :
    Sound good ∧ (0x00 : Byte).toNat + [1, 2, 3, 4, 5, 6, 7, 8, (9 : Byte)].length ≤ 0x09 ∧
    (0x08 : Byte).toNat + [(0xEE : Byte)].length ≤ 0x09 := ⟨good_sound, by decide, by decide⟩

/-- Both sides of the equivalence, with HAEN clear and set (2.8 at a chip with address 1). -/
theorem witness_DeviceSelection :
    ((bench false 0 1 [] 0).chips.map fun c => (c.reachedBy 10 0x46, c.reachedBy 11 0x46, c.reachedBy 10 0x48)) =
      [(true, false, false)] ∧
    ((bench true 0 1 [(5, 0x08)] 0).chips.map fun c => (c.reachedBy 10 0x42, c.reachedBy 10 0x46)) =
      [(true, false)] := by decide

/-- A chip that is not reached beside one that is. -/
theorem witness_UnreachedChipsUntouched :
    isOperation (.setoutputstates 0xFF 0) = true ∧ (∃ t, exec (.setoutputstates 0xFF 0) good = .next t) ∧
    good.chips[0]? = some { goodChip with line := 11 } ∧
    Chip.reachedBy good.engine.csPin good.engine.opcode { goodChip with line := 11 } = false :=
  ⟨rfl, ⟨_, rfl⟩, rfl, by decide⟩

/-- A step that receives a byte; an ignored operation, which sends nothing; and other chips that answer every read
alike (only their pointers differ). -/
theorem witness_EngineSideIgnoresTheChips :
    (∃ t, exec (.writepin 3 1) good = .next t) ∧
    (∃ t, exec (.readpin 8 0) good = .next t ∧ t.trace = good.trace) ∧
    ∀ op addr, received { good with chips := [{ goodChip with line := 11, ptr := 0 }, { goodChip with ptr := 0 }] } op
      addr = received good op addr := by
  refine ⟨⟨_, rfl⟩, ⟨_, rfl, rfl⟩, fun op addr => ?_⟩
  have h : ∀ (line p : Byte), Chip.reachedBy 10 op { goodChip with line := line, ptr := p } =
      Chip.reachedBy 10 op { goodChip with line := line } := fun _ _ => rfl
  show (match List.filter (Chip.reachedBy 10 op) [{ goodChip with line := 11, ptr := 0 }, { goodChip with ptr := 0 }] with
    | [c] => (c.readByte addr).getD (Config.draw 2)
    | _ => Config.draw 2) =
    (match List.filter (Chip.reachedBy 10 op) [{ goodChip with line := 11 }, goodChip] with
    | [c] => (c.readByte addr).getD (Config.draw 2)
    | _ => Config.draw 2)
  simp only [List.filter_cons, List.filter_nil, h]
  cases Chip.reachedBy 10 op { goodChip with line := 11 } <;> cases Chip.reachedBy 10 op goodChip <;> rfl

theorem witness_ConstructionSetsTheEngine :
    let s : State := { good with schedule := [.construct { csPin := 10, deviceAddr := 7, haen := true }] }
    paramsOk s.params = true ∧ s.schedule = [.construct { csPin := 10, deviceAddr := 7, haen := true }] := by decide

/-- In the middle of an operation. -/
theorem witness_StepKeepsInvariant :
    Inv (pairHeld good [[0x05, 0xF0, 0x00]]) ∧ ∃ t, step (pairHeld good [[0x05, 0xF0, 0x00]]) = .next t := by
  refine ⟨⟨sound_of (by decide), rfl, rfl, by unfold Bracketed; decide, ?_⟩, _, rfl⟩
  intro c hc f hf
  simp only [pairHeld, List.mem_cons, List.not_mem_nil, or_false] at hc
  rcases hc with rfl | rfl
  · simp only [Option.some.injEq] at hf
    subst hf
    decide
  · exact nomatch hf

/-- With HARDEN_RMW on and one caller inside a pair. -/
theorem witness_StepKeepsOneHolder :
    OneHolder (pairHeld hardened [[0x05, 0xF0, 0x00]]) ∧
    ∃ t, step (pairHeld hardened [[0x05, 0xF0, 0x00]]) = .next t := by
  refine ⟨fun _ j k hj hk => ?_, _, rfl⟩
  have key : ∀ j, (pairHeld hardened [[0x05, 0xF0, 0x00]]).holdsPair j = true → j = 0 := by
    intro j h
    match j with
    | 0 => rfl
    | 1 => exact absurd h (by decide)
    | j + 2 => simp [State.holdsPair, pairHeld] at h
  rw [key j hj, key k hk]

theorem witness_ConstructionIsForLife :
    (∀ ci rest, (pairHeld good [[0x05, 0xF0, 0x00]]).schedule ≠ .construct ci :: rest) ∧
    ∃ t, step (pairHeld good [[0x05, 0xF0, 0x00]]) = .next t :=
  ⟨fun _ _ h => (nomatch h), _, rfl⟩

theorem witness_OnlyBeginSetsBegun :
    (∃ t, exec (.begin 0 0) State.reset = .next t) ∧ ∃ t, exec (.readpin 0 0) good = .next t := ⟨⟨_, rfl⟩, _, rfl⟩

theorem witness_OpcodeIsFixedAtConstruction :
    isOperation (.reset 0 0) = true ∧ ∃ t, exec (.reset 0 0) good = .next t := ⟨rfl, _, rfl⟩

/-- BEGIN and RESET with either flag, and an instruction that does not read it. -/
theorem witness_HaenIsWhatConstructionAskedFor :
    (∀ h, ∃ t, exec (.begin 0 0) { good with engine.haen := h } = .next t) ∧
    (∀ h, ∃ t, exec (.reset 0 0) { good with engine.haen := h } = .next t) ∧
    ∃ t, exec (.getpinmodes 0 0) good = .next t := ⟨fun _ => ⟨_, rfl⟩, fun _ => ⟨_, rfl⟩, _, rfl⟩

/-- Without and with hardware addressing. -/
theorem witness_BeginRuns :
    (paramsOk State.reset.params = true ∧ Sound State.reset ∧ State.reset.engine.haen = false) ∧
    paramsOk (bench true 3 1 [] 0).params = true ∧ Sound (bench true 3 1 [] 0) ∧
    (bench true 3 1 [] 0).engine.haen = true :=
  ⟨⟨by decide, sound_of (by decide), rfl⟩, by decide, sound_of (by decide), rfl⟩

/-- A chip whose HAEN is clear, with other address pins than the engine's. -/
theorem witness_BeginTurnsHardwareAddressingOn :
    Sound (bench true 3 1 [] 0) ∧ (bench true 3 1 [] 0).engine.haen = true ∧
    (∃ t, exec (.begin 0 0) (bench true 3 1 [] 0) = .next t ∧ (t.chips[0]?).isSome = true) ∧
    ((bench true 3 1 [] 0).chips[0]?.map fun c => (c.line, c.haenBit)) =
      some ((bench true 3 1 [] 0).engine.csPin, false) :=
  ⟨sound_of (by decide), rfl, ⟨_, rfl, by decide⟩, by decide⟩

/-- Both numbers of data bytes. -/
theorem witness_ResetRestoresTheChips :
    (Ready good ∧ Sound good ∧ good.params.resetNdata = 10) ∧
    Ready { good with params.resetNdata := 11 } ∧ Sound { good with params.resetNdata := 11 } :=
  ⟨⟨good_ready, good_sound, rfl⟩, ready_of (by decide), sound_of (by decide)⟩

/-- The pins on both sides of the guard. -/
theorem witness_ReadpinReadsGpio : Ready good ∧ (7 : Byte).toNat ≤ 7 ∧ 7 < (8 : Byte).toNat :=
  ⟨good_ready, by decide, by decide⟩

theorem witness_ReadpinShowsTheLevel : Ready good ∧ SoleChip good 1 goodChip ∧ (7 : Byte).toNat ≤ 7 :=
  ⟨good_ready, good_sole, by decide⟩

/-- One state for each clause: the read, the write, a pin out of range, and the phases no run reaches. -/
theorem witness_WritepinReadsThenWrites :
    (Ready good ∧ (7 : Byte).toNat ≤ 7 ∧ good.phase = .read0) ∧
    (let s := atPhase (.writepin 7 1) (.write0 0x81) good;
      Ready s ∧ s.phase = .write0 0x81 ∧ Sound s) ∧
    (let s := atPhase (.writepin 7 1) (.write1 0x81) good;
      Ready s ∧ s.phase = .write1 0x81 ∧ Sound s) ∧
    (atPhase (.writepin 7 1) .read1 good).phase = .read1 ∧ 7 < (8 : Byte).toNat :=
  ⟨⟨good_ready, by decide, rfl⟩, ⟨ready_of (by decide), rfl, sound_of (by decide)⟩,
    ⟨ready_of (by decide), rfl, sound_of (by decide)⟩, rfl, by decide⟩

theorem witness_WritepinAloneSetsOneLatchBit :
    Ready good ∧ Sound good ∧ SoleChip good 1 goodChip ∧ (7 : Byte).toNat ≤ 7 ∧ good.phase = .read0 ∧
    good.callers[good.active]? = some Caller.idle :=
  ⟨good_ready, good_sound, good_sole, by decide, rfl, rfl⟩

/-- The four phases. -/
theorem witness_SetpinmodeRunsTwoPairs :
    (7 : Byte).toNat ≤ 7 ∧
    (2 : Byte) ∈ [good.params.modeInput, good.params.modeOutput, good.params.modeInputPullup] ∧
    (Ready good ∧ good.phase = .read0) ∧
    (let s := atPhase (.setpinmode 7 2) (.write0 0x0F) good;
      Ready s ∧ s.phase = .write0 0x0F ∧ Sound s) ∧
    (let s := atPhase (.setpinmode 7 2) .read1 good;
      Ready s ∧ s.phase = .read1) ∧
    (let s := atPhase (.setpinmode 7 2) (.write1 0x00) good;
      Ready s ∧ s.phase = .write1 0x00 ∧ Sound s) :=
  ⟨by decide, by decide, ⟨good_ready, rfl⟩, ⟨ready_of (by decide), rfl, sound_of (by decide)⟩,
    ⟨ready_of (by decide), rfl⟩, ready_of (by decide), rfl, sound_of (by decide)⟩

/-- The three modes. -/
theorem witness_SetpinmodeAloneSetsTheMode :
    Ready good ∧ Sound good ∧ SoleChip good 1 goodChip ∧ (7 : Byte).toNat ≤ 7 ∧
    (∀ mode : Byte, mode ∈ [0, 1, 2] →
      mode ∈ [good.params.modeInput, good.params.modeOutput, good.params.modeInputPullup]) ∧
    good.phase = .read0 ∧ good.callers[good.active]? = some Caller.idle :=
  ⟨good_ready, good_sound, good_sole, by decide, by decide, rfl, rfl⟩

/-- A pin just out of range, and a mode just out of the list. -/
theorem witness_BadPinsAndModesAreIgnored :
    Ready good ∧ 7 < (8 : Byte).toNat ∧
    (3 : Byte) ∉ [good.params.modeInput, good.params.modeOutput, good.params.modeInputPullup] :=
  ⟨good_ready, by decide, by decide⟩

theorem witness_BulkWritesStoreOneByte : Ready good ∧ Sound good := ⟨good_ready, good_sound⟩
theorem witness_BulkReadsReturnOneRegister : Ready good := good_ready

/-- A chip that is reached, and none. -/
theorem witness_GetoutputstatesReturnsTheLatch :
    (Ready good ∧ SoleChip good 1 goodChip ∧ (7 : Byte).toNat ≤ 7) ∧
    Ready { good with chips := [] } ∧ ∀ c ∈ ({ good with chips := [] } : State).chips,
      c.reachedBy good.engine.csPin good.engine.opcode = false :=
  ⟨⟨good_ready, good_sole, by decide⟩, ready_of (by decide), by decide⟩

/-- A chip that is reached, and none. -/
theorem witness_PullupsAreWrittenAndReadWhole :
    (Ready good ∧ Sound good ∧ SoleChip good 1 goodChip) ∧
    Ready { good with chips := [] } ∧ Sound { good with chips := [] } ∧
    ∀ c ∈ ({ good with chips := [] } : State).chips,
      c.reachedBy good.engine.csPin good.engine.opcode = false :=
  ⟨⟨good_ready, good_sound, good_sole⟩, ready_of (by decide), sound_of (by decide), by decide⟩

theorem witness_DirectionRoundTrips :
    Ready good ∧ Sound good ∧ SoleChip good 1 goodChip ∧ ∃ t, exec (.setpinmodes 0xFF 0) good = .next t :=
  ⟨good_ready, good_sound, good_sole, _, rfl⟩

theorem witness_WriteregisterSendsItsOperands : Ready good ∧ Sound good := ⟨good_ready, good_sound⟩
theorem witness_ReadregisterReturnsTheByte : Ready good := good_ready

/-- One address for each clause, at its boundaries. -/
theorem witness_WriteregisterAtEveryAddress :
    (Ready good ∧ Sound good ∧ SoleChip good 1 goodChip) ∧
    [0x08, 0x09, 0x0A, 0x0B, 0xFF].map (fun a : Byte => storeAddress a) = [some 8, some 10, some 10, none, none] :=
  ⟨⟨good_ready, good_sound, good_sole⟩, by decide⟩

/-- One address for each clause, at its boundaries. -/
theorem witness_ReadregisterAtEveryAddress :
    (Ready good ∧ SoleChip good 1 goodChip) ∧
    [0x08, 0x09, 0x0A, 0x0B, 0xFF].map (fun a : Byte => goodChip.readByte a) =
      [some 0x00, some 0xA5, some 0x81, none, none] :=
  ⟨⟨good_ready, good_sole⟩, by decide⟩

theorem witness_ClosedListOfFrames :
    isOperation (.getpinmodes 0 0) = true ∧ (∀ a d, Instr.getpinmodes 0 0 ≠ .writeregister a d) ∧
    (∀ a b, Instr.getpinmodes 0 0 ≠ .readregister a b) ∧ ∃ t, exec (.getpinmodes 0 0) good = .next t :=
  ⟨rfl, fun _ _ h => (nomatch h), fun _ _ h => (nomatch h), _, rfl⟩

/-- Before BEGIN too. -/
theorem witness_WireFramesAreTransactions : Sound State.reset ∧ State.reset.engine.begun = false :=
  ⟨sound_of (by decide), rfl⟩

/-- Both numbers of data bytes. -/
theorem witness_OpcodeByteAndBurstOnTheWire : Sound good ∧ ∀ n ∈ [10, 11], n = 10 ∨ n = 11 :=
  ⟨good_sound, by decide⟩

theorem witness_EveryInstructionRuns : Ready good ∧ isReserved (.readFrame 0 0xFF 0) = false := ⟨good_ready, rfl⟩

theorem witness_OperationsEndWithinFourTransactions :
    Ready good ∧ isReserved (.setpinmode 7 2) = false ∧ good.phase = .read0 ∧
    good.callers[good.active]? = some Caller.idle := ⟨good_ready, rfl, rfl, rfl⟩

/-- BEGIN and another operation, after reset. -/
theorem witness_RefusedBeforeBegin :
    paramsOk State.reset.params = true ∧ State.reset.engine.begun = false ∧
    (isOperation (.begin 0 0) = true ∧ isReserved (.begin 0 0) = false ∧ isBegin (.begin 0 0) = true) ∧
    isOperation (.reset 0 0) = true ∧ isReserved (.reset 0 0) = false ∧ isBegin (.reset 0 0) = false := by decide

/-- One parameter set for each clause. -/
theorem witness_BadConfigurationRefused :
    ({ modeInput := 1 } : Params).modeInput = ({ modeInput := 1 } : Params).modeOutput ∧
    ({ modeInput := 2 } : Params).modeInput = ({ modeInput := 2 } : Params).modeInputPullup ∧
    ({ modeOutput := 2 } : Params).modeOutput = ({ modeOutput := 2 } : Params).modeInputPullup ∧
    ({ resetNdata := 9 } : Params).resetNdata ≠ 10 ∧ ({ resetNdata := 9 } : Params).resetNdata ≠ 11 := by decide

theorem witness_StepRunsDecodedInstruction :
    let s := twoCallers [0x03, 0x00, 0x01] [0x05, 0xF0, 0x00] [.caller 0]
    paramsOk s.params = true ∧ s.schedule = [.caller 0] ∧
    s.callers[0]? = some { Caller.idle with pending := [[0x03, 0x00, 0x01]] } ∧
    decode [0x03, 0x00, 0x01] = .ok (.writepin 0 1) ∧ s.blocked 0 (.writepin 0 1) = false := by decide

/-- Under HARDEN_RMW too, for the caller that holds the pair. -/
theorem witness_StepContinuesOperation :
    let s : State := { pairHeld hardened [] with schedule := [.caller 0] }
    paramsOk s.params = true ∧ s.schedule = [.caller 0] ∧
    s.callers[0]? = some { Caller.idle with flight := some { op := .writepin 3 1, phase := .write0 0x81 } } ∧
    s.blocked 0 (.writepin 3 1) = false := by decide

theorem witness_PresentedWordRuns :
    paramsOk State.reset.params = true ∧ decodeTableWord 24 0x460A81 = some (.writeFrame 3 0x0A 0x81) := by decide

/-- Both turns. -/
theorem witness_EnvironmentTouchesOnlyTheChip :
    paramsOk good.params = true ∧ good.chips[1]? = some goodChip ∧
    ({ good with schedule := [.pins 1 0x3C] } : State).schedule = [.pins 1 0x3C] ∧
    ({ good with schedule := [.power 1] } : State).schedule = [.power 1] := by decide

/-- The program P3 under its third schedule. -/
theorem witness_LostUpdate :
    let s := twoCallers (encode (.writepin 0 1)) (encode (.writepin 1 1)) [.caller 0, .caller 1, .caller 0, .caller 1]
    Ready s ∧ Sound s ∧ SoleChip s 1 goodChip ∧ s.params.hardenRmw = false ∧ (1 : Byte).toNat ≤ 7 ∧
    s.callers = [{ Caller.idle with pending := [encode (.writepin 0 1)] },
      { Caller.idle with pending := [encode (.writepin 1 1)] }] ∧ Caller.idle.flight = none ∧
    s.schedule = [.caller 0, .caller 1, .caller 0, .caller 1] :=
  ⟨ready_of (by decide), sound_of (by decide), sole_of rfl (by decide), rfl, by decide, rfl, rfl, rfl⟩

/-- P3's variant. -/
theorem witness_BulkWriteInTheGapIsLost :
    let s := twoCallers (encode (.writepin 0 1)) (encode (.setoutputstates 0xF0 0)) [.caller 0, .caller 1, .caller 0]
    Ready s ∧ Sound s ∧ SoleChip s 1 goodChip ∧ s.params.hardenRmw = false ∧ (0 : Byte).toNat ≤ 7 ∧
    s.callers = [{ Caller.idle with pending := [encode (.writepin 0 1)] },
      { Caller.idle with pending := [encode (.setoutputstates 0xF0 0)] }] ∧ Caller.idle.flight = none ∧
    s.schedule = [.caller 0, .caller 1, .caller 0] :=
  ⟨ready_of (by decide), sound_of (by decide), sole_of rfl (by decide), rfl, by decide, rfl, rfl, rfl⟩

/-- Caller 0 is inside a pair, caller 1 has an operation to issue. -/
theorem witness_HardenedPairExcludesOthers :
    let s := pairHeld hardened [[0x05, 0xF0, 0x00]]
    paramsOk s.params = true ∧ s.params.hardenRmw = true ∧ s.schedule = [.caller 1] ∧ 0 ≠ 1 ∧ s.holdsPair 0 = true ∧
    s.callers[1]? = some { Caller.idle with pending := [[0x05, 0xF0, 0x00]] } ∧
    nextInstr { Caller.idle with pending := [[0x05, 0xF0, 0x00]] } = some (.setoutputstates 0xF0 0) ∧
    isOperation (.setoutputstates 0xF0 0) = true := by decide

/-- A frame at the port of caller 1 while caller 0 is inside a pair, under HARDEN_RMW. -/
theorem witness_OtherDriversAreNotExcluded :
    let s := pairHeld hardened [[0x40, 0x0A, 0xFF]]
    paramsOk s.params = true ∧ s.schedule = [.caller 1] ∧
    s.callers[1]? = some { Caller.idle with pending := [[0x40, 0x0A, 0xFF]] } ∧
    nextInstr { Caller.idle with pending := [[0x40, 0x0A, 0xFF]] } = some (.writeFrame 0 0x0A 0xFF) ∧
    isOperation (.writeFrame 0 0x0A 0xFF) = false := by decide

/-- No turn at all; a caller with nothing to do; a caller that is not there. -/
theorem witness_IdleTurnsPass :
    paramsOk State.reset.params = true ∧ State.reset.schedule = [] ∧ State.reset.callers[0]? = some Caller.idle ∧
    Caller.idle.flight = none ∧ Caller.idle.pending = [] ∧ State.reset.callers[1]? = none := by decide

end Sys2Proof.Tests
end

section
/-! The opcode construction builds; what one transaction and BEGIN change of the state, field by field; what no
instruction changes of the engine; and what a step can be. -/
namespace Sys2Proof.Machine
open Sys2Proof.Safety

/-! ### The opcode of a device address -/

/-- The opcode of a device address is the write opcode of its low two bits (30_encoding.md R60, R61). -/
theorem opcodeOf_eq_wireOpcode (d : Byte) : opcodeOf d = wireOpcode (d.extractLsb' 0 2) false := by
  apply BitVec.eq_of_getLsbD_eq
  intro i hi
  simp only [opcodeOf, wireOpcode, BitVec.getLsbD_or, BitVec.getLsbD_shiftLeft, BitVec.getLsbD_and,
    BitVec.getLsbD_append]
  interval_cases i <;> simp

theorem legalOpcode_opcodeOf (d : Byte) : legalOpcode (opcodeOf d) = true := by
  rw [opcodeOf_eq_wireOpcode]
  generalize d.extractLsb' 0 2 = aa
  revert aa
  decide

/-! ### One transaction -/

@[simp] theorem State.transact_params (bytes : List Byte) (s : State) :
    (s.transact bytes).2.params = s.params := by rw [State.transact_snd]
@[simp] theorem State.transact_engine (bytes : List Byte) (s : State) :
    (s.transact bytes).2.engine = s.engine := by rw [State.transact_snd]
@[simp] theorem State.transact_bus (bytes : List Byte) (s : State) :
    (s.transact bytes).2.bus = { s.bus with asserted := none, txnOpen := false } := by rw [State.transact_snd]
@[simp] theorem State.transact_chips (bytes : List Byte) (s : State) :
    (s.transact bytes).2.chips = s.chips.map (Chip.receive s.engine.csPin bytes) := by rw [State.transact_snd]
@[simp] theorem State.transact_callers (bytes : List Byte) (s : State) :
    (s.transact bytes).2.callers = s.callers := by rw [State.transact_snd]
@[simp] theorem State.transact_active (bytes : List Byte) (s : State) :
    (s.transact bytes).2.active = s.active := by rw [State.transact_snd]
@[simp] theorem State.transact_trace (bytes : List Byte) (s : State) :
    (s.transact bytes).2.trace = s.trace ++ frameEvents s.engine bytes := by rw [State.transact_snd]

/-! ### BEGIN (40_lifecycle.md R86) -/

theorem State.begunState_of_haen {s : State} (h : s.engine.haen = true) :
    s.begunState =
      { (s.pinOutput.transact [s.engine.opcode, regIOCON, haenMask]).2 with engine.begun := true } := by
  simp only [State.begunState, h, if_true, State.memWrite, State.pinOutput_engine]

theorem State.begunState_of_not_haen {s : State} (h : s.engine.haen = false) :
    s.begunState = { s.pinOutput with engine.begun := true } := by
  simp only [State.begunState, h, Bool.false_eq_true, if_false]

@[simp] theorem State.begunState_params (s : State) : s.begunState.params = s.params := by
  cases h : s.engine.haen
  · simp [State.begunState_of_not_haen h]
  · simp [State.begunState_of_haen h]
@[simp] theorem State.begunState_engine (s : State) : s.begunState.engine = { s.engine with begun := true } := by
  cases h : s.engine.haen
  · simp [State.begunState_of_not_haen h]
  · simp [State.begunState_of_haen h]
@[simp] theorem State.begunState_callers (s : State) : s.begunState.callers = s.callers := by
  cases h : s.engine.haen
  · simp [State.begunState_of_not_haen h]
  · simp [State.begunState_of_haen h]
@[simp] theorem State.begunState_active (s : State) : s.begunState.active = s.active := by
  cases h : s.engine.haen
  · simp [State.begunState_of_not_haen h]
  · simp [State.begunState_of_haen h]
@[simp] theorem State.begunState_trace (s : State) :
    s.begunState.trace = s.trace ++ .pinOutput s.engine.csPin ::
      (if s.engine.haen then frameEvents s.engine [s.engine.opcode, regIOCON, haenMask] else []) := by
  cases h : s.engine.haen
  · simp [State.begunState_of_not_haen h]
  · simp [State.begunState_of_haen h]

/-! ### The pin operations, guard by guard and phase by phase (41_pin_ops.md R100 to R104) -/

theorem exec_readpin_ok {pin : Byte} (b : Byte) (s : State) (hp : pinOk pin = true) :
    exec (.readpin pin b) s = s.readOnly regGPIO fun r => getBit r pin := if_pos hp

theorem exec_readpin_bad {pin : Byte} (b : Byte) (s : State) (hp : pinOk pin = false) :
    exec (.readpin pin b) s = s.ignored (some 0x00) := if_neg (by simp [hp])

section Writepin
variable {pin : Byte} (state : Byte) {s : State}

theorem exec_writepin_bad (hp : pinOk pin = false) : exec (.writepin pin state) s = s.ignored none :=
  if_neg (by simp [hp])

theorem exec_writepin_read0 (hp : pinOk pin = true) (h : s.phase = .read0) :
    exec (.writepin pin state) s = s.pairRead (.writepin pin state) regOLAT .write0 := by
  simp only [exec, execWritepin, hp, h, if_true]

theorem exec_writepin_write0 (hp : pinOk pin = true) {r : Byte} (h : s.phase = .write0 r) :
    exec (.writepin pin state) s = s.writeOnly regOLAT (putBit r pin (stateOf state)) := by
  simp only [exec, execWritepin, hp, h, if_true]

theorem exec_writepin_read1 (hp : pinOk pin = true) (h : s.phase = .read1) :
    exec (.writepin pin state) s = s.pairRead (.writepin pin state) regOLAT .write0 := by
  simp only [exec, execWritepin, hp, h, if_true]

theorem exec_writepin_write1 (hp : pinOk pin = true) {r : Byte} (h : s.phase = .write1 r) :
    exec (.writepin pin state) s = s.writeOnly regOLAT (putBit r pin (stateOf state)) := by
  simp only [exec, execWritepin, hp, h, if_true]

end Writepin

section Setpinmode
variable {pin mode : Byte} {s : State}

theorem exec_setpinmode_bad (hp : (pinOk pin && modeOk s.params mode) = false) :
    exec (.setpinmode pin mode) s = s.ignored none :=
  if_neg (by simp [hp])

theorem exec_setpinmode_read0 (hp : (pinOk pin && modeOk s.params mode) = true) (h : s.phase = .read0) :
    exec (.setpinmode pin mode) s = s.pairRead (.setpinmode pin mode) regIODIR .write0 := by
  simp only [exec, execSetpinmode, hp, h, if_true]

theorem exec_setpinmode_write0 (hp : (pinOk pin && modeOk s.params mode) = true) {r : Byte}
    (h : s.phase = .write0 r) :
    exec (.setpinmode pin mode) s =
      s.whenBegun (.next ((s.memWrite regIODIR (putBit r pin (!modeIsOutput s.params mode))).goOn
        (.setpinmode pin mode) .read1)) := by
  simp only [exec, execSetpinmode, hp, h, if_true]

theorem exec_setpinmode_read1 (hp : (pinOk pin && modeOk s.params mode) = true) (h : s.phase = .read1) :
    exec (.setpinmode pin mode) s = s.pairRead (.setpinmode pin mode) regGPPU .write1 := by
  simp only [exec, execSetpinmode, hp, h, if_true]

theorem exec_setpinmode_write1 (hp : (pinOk pin && modeOk s.params mode) = true) {q : Byte}
    (h : s.phase = .write1 q) :
    exec (.setpinmode pin mode) s = s.writeOnly regGPPU (putBit q pin (modeIsPullup s.params mode)) := by
  simp only [exec, execSetpinmode, hp, h, if_true]

end Setpinmode

/-! ### Every instruction -/

/-- Of the engine an instruction changes `begun` alone, and of the instructions BEGIN alone does (10_state.md R11 to
R15). -/
theorem exec_engine {i : Instr} {s t : State} (h : exec i s = .next t) :
    t.engine = { s.engine with begun := s.engine.begun || isBegin i } := by
  obtain ⟨hi, -, rfl⟩ | ⟨hi, -, r, rfl⟩ | ⟨hi, b0, rest, r, -, rfl⟩ | ⟨hi, b0, rest, p, -, -, -, -, rfl⟩ := exec_next h
  · simp [hi]
  · simp [hi]
  · simp [hi]
  · simp [hi]

/-- No instruction changes the parameters. -/
theorem exec_params {i : Instr} {s t : State} (h : exec i s = .next t) : t.params = s.params := by
  obtain ⟨-, -, rfl⟩ | ⟨-, -, r, rfl⟩ | ⟨-, b0, rest, r, -, rfl⟩ | ⟨-, b0, rest, p, -, -, -, -, rfl⟩ := exec_next h
  · simp
  · simp
  · simp
  · simp

/-! ### Turns of the schedule -/

/-- A caller's turn that finds something to run takes at most a word from its port. -/
theorem State.fetch_run_state {k : Nat} {s s' : State} {i : Instr} (h : s.fetch k = .run i s') :
    s' = s ∨ s' = s.accept k i := by
  obtain ⟨c, -, -, ⟨p, -, rfl⟩ | ⟨-, w, ws, -, -, rfl⟩⟩ := State.fetch_run h
  · exact .inl rfl
  · exact .inr rfl

/-- What a step is, turn by turn (60_exceptions.md R151): nobody's, the environment's, a construction, a caller's that
passes, and a caller's that runs an instruction. -/
theorem step_next {s t : State} (h : step s = .next t) :
    (s.schedule = [] ∧ t = s) ∨
    (∃ j v rest, s.schedule = .pins j v :: rest ∧ t = State.setPins j v { s with schedule := rest }) ∨
    (∃ j rest, s.schedule = .power j :: rest ∧ t = State.powerCycle j { s with schedule := rest }) ∨
    (∃ ci rest, s.schedule = .construct ci :: rest ∧ t = State.construct ci { s with schedule := rest }) ∨
    (∃ k rest, s.schedule = .caller k :: rest ∧ t = { s with schedule := rest, active := k }) ∨
    (∃ k rest i s', s.schedule = .caller k :: rest ∧
      State.fetch k { s with schedule := rest, active := k } = .run i s' ∧ exec i s' = .next t) := by
  simp only [step] at h
  split at h
  · split at h
    · next hs => exact .inl ⟨hs, (Host.Outcome.next.inj h).symm⟩
    · next j v rest hs => exact .inr (.inl ⟨j, v, rest, hs, (Host.Outcome.next.inj h).symm⟩)
    · next j rest hs => exact .inr (.inr (.inl ⟨j, rest, hs, (Host.Outcome.next.inj h).symm⟩))
    · next ci rest hs => exact .inr (.inr (.inr (.inl ⟨ci, rest, hs, (Host.Outcome.next.inj h).symm⟩)))
    · next k rest hs =>
      split at h
      · exact .inr (.inr (.inr (.inr (.inl ⟨k, rest, hs, (Host.Outcome.next.inj h).symm⟩))))
      · cases h
      · next i s' hf => exact .inr (.inr (.inr (.inr (.inr ⟨k, rest, i, s', hs, hf, h⟩))))
  · cases h

end Sys2Proof.Machine
end

section
/-! The invariant: what a transaction keeps of it, what an instruction restores of it, and the step. -/
namespace Sys2Proof.Machine
open Sys2Proof.Safety

/-! ### A chip between transactions -/

theorem chipInv_iff (c : Chip) :
    chipInv c = true ↔ c.regs.wf = true ∧ c.regs.inSpace = true ∧ c.frame = .idle := by
  simp [chipInv, and_assoc]

/-- A register file as every chip holds it, inside a frame too: canonical, and listing storage addresses only. -/
def Memory.Good (m : Memory) : Prop := m.wf = true ∧ m.inSpace = true

theorem Chip.accept_regs_good {c : Chip} (h : c.regs.Good) (tx : Byte) : (c.accept tx).regs.Good := by
  simp only [Chip.accept]
  split
  · exact h
  · exact h
  · exact h
  · exact ⟨Chip.writeData_wf c tx h.1, Chip.writeData_inSpace c tx h.2⟩
  · exact h
  · exact h

theorem Chip.foldl_accept_regs_good {c : Chip} (h : c.regs.Good) (bytes : List Byte) :
    (bytes.foldl Chip.accept c).regs.Good := by
  induction bytes generalizing c with
  | nil => exact h
  | cons b bytes ih => exact ih (Chip.accept_regs_good h b)

/-- A whole frame of any bytes leaves the chip between transactions. -/
theorem Chip.receive_inv {c : Chip} (h : chipInv c = true) (line : Byte) (bytes : List Byte) :
    chipInv (c.receive line bytes) = true := by
  obtain ⟨hwf, hspace, -⟩ := (chipInv_iff c).mp h
  obtain ⟨hwf', hspace'⟩ := Chip.foldl_accept_regs_good (c := c.csAssert line) ⟨hwf, hspace⟩ bytes
  exact (chipInv_iff _).mpr ⟨hwf', hspace', rfl⟩

/-- A power cycle leaves the chip between transactions (20_memory.md R55). -/
theorem Chip.powerCycle_inv (ptr pins : Byte) (c : Chip) : chipInv (c.powerCycle ptr pins) = true := rfl

/-- Changing one chip to another that is between transactions keeps all of them there. -/
theorem chipInv_modify {cs : List Chip} (h : ∀ c ∈ cs, chipInv c = true) (j : Nat) {f : Chip → Chip}
    (hf : ∀ c, chipInv c = true → chipInv (f c) = true) : ∀ c ∈ cs.modify j f, chipInv c = true := by
  intro c hc
  obtain ⟨k, hk⟩ := List.mem_iff_getElem?.mp hc
  rw [List.getElem?_modify] at hk
  obtain ⟨d, hd, rfl⟩ := Option.map_eq_some_iff.mp hk
  have hinv := h d (List.mem_of_getElem? hd)
  split
  · exact hf d hinv
  · exact hinv

/-! ### The bracket discipline of a trace -/

theorem TracePos.run_append (p : TracePos) (es fs : List Event) :
    p.run (es ++ fs) = (p.run es).bind fun q => q.run fs := by
  induction es generalizing p with
  | nil => rfl
  | cons e es ih =>
    simp only [List.cons_append, TracePos.run]
    cases p.after e with
    | none => rfl
    | some q => exact ih q

theorem TracePos.run_framed_xfers (pin : Byte) (bytes : List Byte) :
    (TracePos.framed pin).run (bytes.map .xfer) = some (.framed pin) := by
  induction bytes with
  | nil => rfl
  | cons b bytes ih => exact ih

/-- The events of a frame are a whole transaction (20_memory.md R32, R33, R35). -/
theorem bracketed_frameEvents (x : Engine) (bytes : List Byte) : Bracketed (frameEvents x bytes) := by
  have frame : (TracePos.framed x.csPin).run (bytes.map .xfer ++ [.csDeassert x.csPin, .txnEnd]) = some .outside := by
    rw [TracePos.run_append, TracePos.run_framed_xfers]
    simp [TracePos.run, TracePos.after]
  exact frame

theorem bracketed_append {es fs : List Event} (he : Bracketed es) (hf : Bracketed fs) : Bracketed (es ++ fs) := by
  have he' : TracePos.run .outside es = some .outside := he
  simp only [Bracketed, TracePos.run_append, he', Option.bind_some]
  exact hf

/-! ### Between transactions -/

/-- What the invariant says of everything but the operations in flight. -/
structure Between (s : State) : Prop where
  sound : Sound s
  asserted : s.bus.asserted = none
  txnOpen : s.bus.txnOpen = false
  trace : Bracketed s.trace

/-- Every operation in flight, but for those of caller `k` where one is left out, stands at a phase of its own. -/
def FlightsOk (except : Option Nat) (s : State) : Prop :=
  ∀ j c f, some j ≠ except → s.callers[j]? = some c → c.flight = some f → flightInv s.params f = true

/-- The invariant in its two parts. -/
theorem inv_iff (s : State) : Inv s ↔ Between s ∧ FlightsOk none s := by
  constructor
  · rintro ⟨hsound, hasserted, hopen, htrace, hflights⟩
    exact ⟨⟨hsound, hasserted, hopen, htrace⟩, fun j c f _ hc hf => hflights c (List.mem_of_getElem? hc) f hf⟩
  · rintro ⟨⟨hsound, hasserted, hopen, htrace⟩, hflights⟩
    refine ⟨hsound, hasserted, hopen, htrace, fun c hc f hf => ?_⟩
    obtain ⟨j, hj⟩ := List.mem_iff_getElem?.mp hc
    exact hflights j c f nofun hj hf

/-- Between transactions rests on the engine's opcode, the chips, the bus and the trace only. -/
theorem Between.congr {s t : State} (h : Between s) (he : t.engine.opcode = s.engine.opcode) (hc : t.chips = s.chips)
    (hb : t.bus.asserted = s.bus.asserted ∧ t.bus.txnOpen = s.bus.txnOpen) (ht : t.trace = s.trace) : Between t where
  sound := ⟨he ▸ h.sound.opcode, hc ▸ h.sound.chips⟩
  asserted := hb.1.trans h.asserted
  txnOpen := hb.2.trans h.txnOpen
  trace := ht ▸ h.trace

/-- A transaction of any bytes keeps it. -/
theorem Between.transact {s : State} (h : Between s) (bytes : List Byte) : Between (s.transact bytes).2 where
  sound := by
    refine ⟨by simpa using h.sound.opcode, fun c hc => ?_⟩
    rw [State.transact_chips] at hc
    obtain ⟨d, hd, rfl⟩ := List.mem_map.mp hc
    exact Chip.receive_inv (h.sound.chips d hd) _ _
  asserted := by simp
  txnOpen := by simp
  trace := by simpa using bracketed_append h.trace (bracketed_frameEvents s.engine bytes)

/-- PIN_OUTPUT keeps it. -/
theorem Between.pinOutput {s : State} (h : Between s) : Between s.pinOutput where
  sound := ⟨h.sound.opcode, h.sound.chips⟩
  asserted := h.asserted
  txnOpen := h.txnOpen
  trace := bracketed_append h.trace (fs := [.pinOutput s.engine.csPin]) rfl

/-- BEGIN keeps it. -/
theorem Between.begunState {s : State} (h : Between s) : Between s.begunState := by
  cases hh : s.engine.haen
  · rw [State.begunState_of_not_haen hh]
    exact h.pinOutput.congr rfl rfl ⟨rfl, rfl⟩ rfl
  · rw [State.begunState_of_haen hh]
    exact (h.pinOutput.transact _).congr rfl rfl ⟨rfl, rfl⟩ rfl

/-- Every instruction keeps it. -/
theorem exec_between {i : Instr} {s t : State} (hb : Between s) (h : exec i s = .next t) : Between t := by
  obtain ⟨-, -, rfl⟩ | ⟨-, -, r, rfl⟩ | ⟨-, b0, rest, r, -, rfl⟩ | ⟨-, b0, rest, p, -, -, -, -, rfl⟩ := exec_next h
  · exact hb.begunState.congr rfl rfl ⟨rfl, rfl⟩ rfl
  · exact hb.congr rfl rfl ⟨rfl, rfl⟩ rfl
  · exact (hb.transact _).congr rfl rfl ⟨rfl, rfl⟩ rfl
  · exact (hb.transact _).congr rfl rfl ⟨rfl, rfl⟩ rfl

/-! ### Operations in flight -/

/-- What becomes of the callers rests on the callers and the active one only. -/
theorem CallerBecomes.of_eq {g : Caller → Caller} {s u t : State} (h : CallerBecomes g u t)
    (hc : u.callers = s.callers) (ha : u.active = s.active) : CallerBecomes g s t where
  active c hs := by
    rw [← ha]
    exact h.active c (by rw [hc, ha]; exact hs)
  others k hk := by rw [h.others k (by rwa [ha]), hc]
  count := by rw [h.count, hc]

/-- An instruction changes the active caller's record only, and what it leaves in flight there stands at a phase of its
own (10_state.md R16). -/
theorem exec_callers {i : Instr} {s t : State} (h : exec i s = .next t) :
    ∃ g, CallerBecomes g s t ∧ ∀ c f, (g c).flight = some f → flightInv s.params f = true := by
  have completes : ∀ (u : State) (r : Option Byte), u.callers = s.callers → u.active = s.active →
      ∃ g, CallerBecomes g s (u.complete r) ∧ ∀ c f, (g c).flight = some f → flightInv s.params f = true :=
    fun u r hc ha => ⟨_, CallerBecomes.of_eq (State.complete_callerBecomes r u) hc ha, fun c f hf => nomatch hf⟩
  obtain ⟨-, -, rfl⟩ | ⟨-, -, r, rfl⟩ | ⟨-, b0, rest, r, -, rfl⟩ | ⟨-, b0, rest, p, -, -, -, hp, rfl⟩ := exec_next h
  · exact completes _ none (by simp) (by simp)
  · exact completes _ r rfl rfl
  · exact completes _ r (by simp) (by simp)
  · refine ⟨_, CallerBecomes.of_eq (State.goOn_callerBecomes i p _) (by simp) (by simp), fun c f hf => ?_⟩
    obtain rfl := Option.some.inj hf
    exact hp

/-- Whatever the active caller had in flight, after an instruction every flight stands at a phase of its own. -/
theorem exec_flightsOk {i : Instr} {s t : State} (ho : FlightsOk (some s.active) s) (h : exec i s = .next t) :
    FlightsOk none t := by
  obtain ⟨g, hg, hflight⟩ := exec_callers h
  intro j c f _ hc hf
  rw [exec_params h]
  by_cases hj : j = s.active
  · subst hj
    have hlt : s.active < s.callers.length := by
      rw [← hg.count]
      exact (List.getElem?_eq_some_iff.mp hc).1
    have hbecome := hg.active _ (List.getElem?_eq_getElem hlt)
    obtain rfl := Option.some.inj (hc.symm.trans hbecome)
    exact hflight _ f hf
  · exact ho j c f (by simpa using hj) (by rw [← hg.others j hj]; exact hc) hf

/-- In the state an instruction runs in the invariant holds, but for the flight of the caller that runs it. -/
theorem fetch_run_inv {k : Nat} {s s' : State} {i : Instr} (hs : Inv s) (hk : s.active = k)
    (h : s.fetch k = .run i s') : Between s' ∧ FlightsOk (some s'.active) s' := by
  obtain ⟨hb, hf⟩ := (inv_iff s).mp hs
  rcases State.fetch_run_state h with rfl | rfl
  · exact ⟨hb, fun j c f _ hc => hf j c f nofun hc⟩
  · refine ⟨hb.congr rfl rfl ⟨rfl, rfl⟩ rfl, fun j c f hj hc hcf => ?_⟩
    have hjk : k ≠ j := fun e => hj (by rw [State.accept_active, hk, e])
    exact hf j c f nofun (by simpa [hjk] using hc) hcf

/-! ### Turns -/

theorem setPins_inv {s : State} (h : Inv s) (j : Nat) (v : Byte) : Inv (s.setPins j v) where
  sound := ⟨h.sound.opcode, chipInv_modify h.sound.chips j fun _ hc => hc⟩
  asserted := h.asserted
  txnOpen := h.txnOpen
  trace := h.trace
  flights := h.flights

theorem powerCycle_inv {s : State} (h : Inv s) (j : Nat) : Inv (s.powerCycle j) where
  sound := ⟨h.sound.opcode, chipInv_modify h.sound.chips j fun c _ => Chip.powerCycle_inv _ _ c⟩
  asserted := h.asserted
  txnOpen := h.txnOpen
  trace := h.trace
  flights := h.flights

theorem construct_inv {s : State} (h : Inv s) (ci : ConstructInputs) : Inv (s.construct ci) where
  sound := ⟨legalOpcode_opcodeOf ci.deviceAddr, h.sound.chips⟩
  asserted := rfl
  txnOpen := rfl
  trace := h.trace
  flights := by
    intro c hc f hf
    rw [State.construct_callers] at hc
    obtain ⟨d, -, rfl⟩ := List.mem_map.mp hc
    exact nomatch hf

/-- The invariant speaks neither of the schedule nor of whose turn it is. -/
theorem inv_of_turn {s : State} (h : Inv s) (rest : List Turn) (k : Nat) :
    Inv { s with schedule := rest, active := k } where
  sound := ⟨h.sound.opcode, h.sound.chips⟩
  asserted := h.asserted
  txnOpen := h.txnOpen
  trace := h.trace
  flights := h.flights

/-- An instruction that a caller's turn runs keeps the invariant. -/
theorem fetch_exec_inv {k : Nat} {s s' t : State} {i : Instr} (hs : Inv s) (hk : s.active = k)
    (hf : s.fetch k = .run i s') (h : exec i s' = .next t) : Inv t := by
  obtain ⟨hb, hfl⟩ := fetch_run_inv hs hk hf
  exact (inv_iff t).mpr ⟨exec_between hb h, exec_flightsOk hfl h⟩

/-- Settles O15, turn by turn: an environment turn keeps every chip between transactions, a construction builds a legal
opcode and drops all flights, and an instruction makes whole transactions and restores its own caller's flight. -/
theorem stepKeepsInvariant : Obligations.StepKeepsInvariant := by
  intro s t hs h
  obtain ⟨-, rfl⟩ | ⟨j, v, rest, -, rfl⟩ | ⟨j, rest, -, rfl⟩ | ⟨ci, rest, -, rfl⟩ | ⟨k, rest, -, rfl⟩ |
    ⟨k, rest, i, s', -, hf, he⟩ := step_next h
  · exact hs
  · exact setPins_inv (inv_of_turn hs rest s.active) j v
  · exact powerCycle_inv (inv_of_turn hs rest s.active) j
  · exact construct_inv (inv_of_turn hs rest s.active) ci
  · exact inv_of_turn hs rest k
  · exact fetch_exec_inv (inv_of_turn hs rest k) rfl hf he

/-- Settles O13. The one chip lists no register, so each reads as its power-on value. -/
theorem resetLeaves : Obligations.ResetLeaves := by
  refine ⟨rfl, rfl, rfl, rfl, rfl, rfl, rfl, by decide, fun c hc => ?_⟩
  obtain rfl := List.mem_singleton.mp hc
  exact ⟨rfl, fun a ha => if_neg (Nat.ne_of_gt ha)⟩

/-- Settles O14: nothing is in flight and no event was emitted; OneHolder holds because HARDEN_RMW is off. -/
theorem resetMeetsInvariant : Obligations.ResetMeetsInvariant := by
  refine ⟨⟨⟨legalOpcode_opcodeOf 0, by decide⟩, rfl, rfl, rfl, fun c hc f hf => ?_⟩, fun hharden => nomatch hharden⟩
  obtain rfl := List.mem_singleton.mp hc
  exact nomatch hf

end Sys2Proof.Machine
end

section
/-! What construction fixed: the engine over a step (10_state.md R11 to R15), and the first byte of a transaction. -/
namespace Sys2Proof.Machine
open Sys2Proof.Safety

/-- Settles O17: only a construction or an instruction can touch the engine, and an instruction changes `begun` alone,
to true. -/
theorem constructionIsForLife : Obligations.ConstructionIsForLife := by
  intro s t hno h
  have keeps : t.engine = s.engine → t.params = s.params →
      t.engine.opcode = s.engine.opcode ∧ t.engine.haen = s.engine.haen ∧ t.engine.csPin = s.engine.csPin ∧
      t.engine.busCfg = s.engine.busCfg ∧ (s.engine.begun = true → t.engine.begun = true) ∧ t.params = s.params :=
    fun he hp => ⟨by rw [he], by rw [he], by rw [he], by rw [he], fun hb => by rw [he, hb], hp⟩
  obtain ⟨-, rfl⟩ | ⟨j, v, rest, -, rfl⟩ | ⟨j, rest, -, rfl⟩ | ⟨ci, rest, hs, -⟩ | ⟨k, rest, -, rfl⟩ |
    ⟨k, rest, i, s', -, hf, he⟩ := step_next h
  · exact keeps rfl rfl
  · exact keeps rfl rfl
  · exact keeps rfl rfl
  · exact absurd hs (hno ci rest)
  · exact keeps rfl rfl
  · have hengine : s'.engine = s.engine ∧ s'.params = s.params := by
      rcases State.fetch_run_state hf with rfl | rfl
      · exact ⟨rfl, rfl⟩
      · exact ⟨rfl, rfl⟩
    rw [exec_engine he, exec_params he, hengine.1, hengine.2]
    exact ⟨rfl, rfl, rfl, rfl, fun hb => by simp [hb], rfl⟩

/-- Settles O18. -/
theorem onlyBeginSetsBegun : Obligations.OnlyBeginSetsBegun := by
  intro i s t h
  rw [exec_engine h]

/-- What an operation emits (30_encoding.md R69): nothing, one transaction that starts with an opcode byte of the
engine's own, or BEGIN's PIN_OUTPUT with or without one. -/
theorem exec_trace_of_operation {i : Instr} {s t : State} (h : exec i s = .next t) (hi : isOperation i = true) :
    ∃ new, t.trace = s.trace ++ new ∧
      (new = [] ∨ new = [.pinOutput s.engine.csPin] ∨
        ∃ b0 rest, OwnOpcode s b0 ∧
          (new = frameEvents s.engine (b0 :: rest) ∨
            new = .pinOutput s.engine.csPin :: frameEvents s.engine (b0 :: rest))) := by
  obtain ⟨-, -, rfl⟩ | ⟨-, -, r, rfl⟩ | ⟨-, b0, rest, r, hown, rfl⟩ | ⟨-, b0, rest, p, -, -, hown, -, rfl⟩ :=
    exec_next h
  · refine ⟨_, State.begunState_trace s, .inr ?_⟩
    cases s.engine.haen
    · exact .inl rfl
    · exact .inr ⟨_, _, .inl rfl, .inr rfl⟩
  · exact ⟨[], (List.append_nil _).symm, .inl rfl⟩
  · exact ⟨_, State.transact_trace _ s, .inr (.inr ⟨b0, rest, (hown hi).2, .inl rfl⟩)⟩
  · exact ⟨_, State.transact_trace _ s, .inr (.inr ⟨b0, rest, hown, .inl rfl⟩)⟩

/-- The fields of a write opcode (30_encoding.md R60). -/
theorem wireOpcode_write_fields : ∀ aa : BitVec 2,
    wireOpcode aa false ∈ [0x40, 0x42, 0x44, 0x46] ∧ (wireOpcode aa false).extractLsb' 3 5 = 0b01000#5 ∧
    (wireOpcode aa false).extractLsb' 1 2 = aa ∧ (wireOpcode aa false).getLsbD 0 = false := by
  decide

/-- Settles O19: the opcode construction builds is a write opcode of R60, and what is emitted is
`exec_trace_of_operation`. -/
theorem opcodeIsFixedAtConstruction : Obligations.OpcodeIsFixedAtConstruction := by
  refine ⟨fun p ci => ⟨rfl, ?_⟩, fun i s t h => ⟨by rw [exec_engine h], exec_trace_of_operation h⟩⟩
  have hopcode : (Engine.construct p ci).opcode = wireOpcode (ci.deviceAddr.extractLsb' 0 2) false :=
    opcodeOf_eq_wireOpcode ci.deviceAddr
  rw [hopcode]
  exact wireOpcode_write_fields _

end Sys2Proof.Machine
end

section
/-! What reads `haen` (10_state.md R12): BEGIN and RESET emit other events with it, and every other instruction does the
same with either value. -/
namespace Sys2Proof.Machine
open Sys2Proof.Safety

/-- The state with `haen` set to `h`. -/
def State.withHaen (h : Bool) (s : State) : State := { s with engine.haen := h }

/-! ### The shared operations do not read it -/

theorem State.xferAll_withHaen (h : Bool) (bytes : List Byte) (rx : Byte) (s : State) :
    (s.withHaen h).xferAll bytes rx = ((s.xferAll bytes rx).1, (s.xferAll bytes rx).2.withHaen h) := by
  induction bytes generalizing rx s with
  | nil => rfl
  | cons b bytes ih => exact ih (s.xfer b).1 (s.xfer b).2

theorem State.transact_withHaen (h : Bool) (bytes : List Byte) (s : State) :
    (s.withHaen h).transact bytes = ((s.transact bytes).1, (s.transact bytes).2.withHaen h) := by
  have hall : ((s.withHaen h).txnBegin.csAssert).xferAll bytes 0 = _ :=
    State.xferAll_withHaen h bytes 0 s.txnBegin.csAssert
  simp only [State.transact, hall]
  rfl

/-- A meaning that does not read `haen`: with any value of it, it answers the same next state. -/
def HaenBlind (m : State → Host.Outcome State Fault Refusal) : Prop :=
  ∀ (h : Bool) (s t : State), m s = .next t → m (s.withHaen h) = .next (t.withHaen h)

theorem HaenBlind.whenBegun {m : State → Host.Outcome State Fault Refusal} (hm : HaenBlind m) :
    HaenBlind fun s => s.whenBegun (m s) := by
  intro h s t hs
  obtain ⟨hr, hs⟩ := State.whenBegun_next hs
  exact (State.whenBegun_of_ready (s := s.withHaen h) ⟨hr.params, hr.begun⟩ _).trans (hm h s t hs)

/-- One transaction that completes with a view of the byte received, or with nothing. -/
theorem haenBlind_transact_finish (bytes : State → List Byte) (result : Byte → Option Byte)
    (hb : ∀ h s, bytes (State.withHaen h s) = bytes s) :
    HaenBlind fun s => (s.transact (bytes s)).2.finish (result (s.transact (bytes s)).1) := by
  intro h s t hs
  obtain rfl := Host.Outcome.next.inj hs
  simp only [hb, State.transact_withHaen]
  rfl

/-- One transaction after which the operation goes on. -/
theorem haenBlind_transact_goOn (bytes : State → List Byte) (op : Instr) (next : Byte → Phase)
    (hb : ∀ h s, bytes (State.withHaen h s) = bytes s) :
    HaenBlind fun s => .next ((s.transact (bytes s)).2.goOn op (next (s.transact (bytes s)).1)) := by
  intro h s t hs
  obtain rfl := Host.Outcome.next.inj hs
  simp only [hb, State.transact_withHaen]
  rfl

theorem haenBlind_writeOnly (addr v : Byte) : HaenBlind (State.writeOnly addr v) :=
  (haenBlind_transact_finish (fun s => [s.engine.opcode, addr, v]) (fun _ => none) fun _ _ => rfl).whenBegun

theorem haenBlind_readOnly (addr : Byte) (view : Byte → Byte) : HaenBlind (State.readOnly addr view) :=
  (haenBlind_transact_finish (fun s => [readOpcode s.engine.opcode, addr, s.params.dummyByte])
    (fun b => some (view b)) fun _ _ => rfl).whenBegun

theorem haenBlind_ignored (r : Option Byte) : HaenBlind (State.ignored r) :=
  HaenBlind.whenBegun (m := State.finish r) fun h s t hs => by
    obtain rfl := Host.Outcome.next.inj hs
    rfl

theorem haenBlind_pairRead (op : Instr) (addr : Byte) (next : Byte → Phase) :
    HaenBlind (State.pairRead op addr next) :=
  (haenBlind_transact_goOn (fun s => [readOpcode s.engine.opcode, addr, s.params.dummyByte]) op next
    fun _ _ => rfl).whenBegun

theorem haenBlind_frame (bytes : List Byte) (result : Byte → Option Byte) :
    HaenBlind fun s => (s.transact bytes).2.finish (result (s.transact bytes).1) :=
  haenBlind_transact_finish (fun _ => bytes) result fun _ _ => rfl

/-! ### The instructions -/

/-- An instruction that acts with either `haen` as a blind meaning does gives the same next state. -/
theorem HaenBlind.exec {m : State → Host.Outcome State Fault Refusal} (hm : HaenBlind m) {i : Instr} {h : Bool}
    {s t : State} (hwith : exec i (s.withHaen h) = m (s.withHaen h)) (hplain : exec i s = m s)
    (hs : exec i s = .next t) : exec i (s.withHaen h) = .next (t.withHaen h) :=
  hwith.trans (hm h s t (hplain.symm.trans hs))

theorem haenBlind_readpin (pin b : Byte) : HaenBlind (exec (.readpin pin b)) := by
  intro h s t
  cases hp : pinOk pin with
  | false => exact (haenBlind_ignored _).exec (exec_readpin_bad b _ hp) (exec_readpin_bad b _ hp)
  | true => exact (haenBlind_readOnly _ _).exec (exec_readpin_ok b _ hp) (exec_readpin_ok b _ hp)

theorem haenBlind_writepin (pin state : Byte) : HaenBlind (exec (.writepin pin state)) := by
  intro h s t
  cases hp : pinOk pin with
  | false => exact (haenBlind_ignored _).exec (exec_writepin_bad state hp) (exec_writepin_bad state hp)
  | true =>
    cases hs : s.phase with
    | read0 =>
      exact (haenBlind_pairRead _ _ _).exec (exec_writepin_read0 state hp hs) (exec_writepin_read0 state hp hs)
    | write0 r =>
      exact (haenBlind_writeOnly _ _).exec (exec_writepin_write0 state hp hs) (exec_writepin_write0 state hp hs)
    | read1 =>
      exact (haenBlind_pairRead _ _ _).exec (exec_writepin_read1 state hp hs) (exec_writepin_read1 state hp hs)
    | write1 r =>
      exact (haenBlind_writeOnly _ _).exec (exec_writepin_write1 state hp hs) (exec_writepin_write1 state hp hs)

/-- SETPINMODE's first write, after which its second pair begins. -/
theorem haenBlind_directionWrite (pin mode r : Byte) :
    HaenBlind fun s => s.whenBegun (.next ((s.memWrite regIODIR (putBit r pin (!modeIsOutput s.params mode))).goOn
      (.setpinmode pin mode) .read1)) :=
  (haenBlind_transact_goOn
    (fun s => [s.engine.opcode, regIODIR, putBit r pin (!modeIsOutput s.params mode)]) (.setpinmode pin mode)
    (fun _ => .read1) fun _ _ => rfl).whenBegun

theorem haenBlind_setpinmode (pin mode : Byte) : HaenBlind (exec (.setpinmode pin mode)) := by
  intro h s t
  cases hp : pinOk pin && modeOk s.params mode with
  | false => exact (haenBlind_ignored _).exec (exec_setpinmode_bad hp) (exec_setpinmode_bad hp)
  | true =>
    cases hs : s.phase with
    | read0 => exact (haenBlind_pairRead _ _ _).exec (exec_setpinmode_read0 hp hs) (exec_setpinmode_read0 hp hs)
    | write0 r =>
      exact (haenBlind_directionWrite pin mode r).exec (exec_setpinmode_write0 (s := s.withHaen h) hp hs)
        (exec_setpinmode_write0 hp hs)
    | read1 => exact (haenBlind_pairRead _ _ _).exec (exec_setpinmode_read1 hp hs) (exec_setpinmode_read1 hp hs)
    | write1 q =>
      exact (haenBlind_writeOnly regGPPU (putBit q pin (modeIsPullup s.params mode))).exec
        (exec_setpinmode_write1 (s := s.withHaen h) hp hs) (exec_setpinmode_write1 hp hs)

/-- Every instruction but BEGIN and RESET. -/
theorem haenBlind_exec {i : Instr} (hi : (isBegin i || isReset i) = false) : HaenBlind (exec i) := by
  cases i with
  | begin a b => cases hi
  | reset a b => cases hi
  | readpin pin b => exact haenBlind_readpin pin b
  | writepin pin state => exact haenBlind_writepin pin state
  | setpinmode pin mode => exact haenBlind_setpinmode pin mode
  | setoutputstates byte b => exact haenBlind_writeOnly _ _
  | getoutputstates a b => exact haenBlind_readOnly _ _
  | setpinmodes byte b => exact haenBlind_writeOnly _ _
  | getpinmodes a b => exact haenBlind_readOnly _ _
  | enablepullups byte b => exact haenBlind_writeOnly _ _
  | getenabledpullups a b => exact haenBlind_readOnly _ _
  | writeregister address data => exact haenBlind_writeOnly _ _
  | readregister address b => exact haenBlind_readOnly _ _
  | reservedD a b => exact fun h s t hs => nomatch hs
  | reservedE a b => exact fun h s t hs => nomatch hs
  | reservedF a b => exact fun h s t hs => nomatch hs
  | opcodeByte aa read => exact haenBlind_frame _ fun _ => none
  | writeFrame aa address data => exact haenBlind_frame _ fun _ => none
  | readFrame aa address dummy => exact haenBlind_frame _ some
  | resetBurstFrame aa haen ndata => exact haenBlind_frame _ fun _ => none

/-! ### BEGIN and RESET read it -/

theorem execBegin_trace {a b : Byte} {s t : State} (h : exec (.begin a b) s = .next t) :
    t.trace = s.trace ++ .pinOutput s.engine.csPin ::
      (if s.engine.haen then frameEvents s.engine [s.engine.opcode, regIOCON, haenMask] else []) := by
  obtain ⟨-, h⟩ := State.whenConfigured_next (k := State.finish none s.begunState) h
  obtain rfl := Host.Outcome.next.inj h
  exact State.begunState_trace s

theorem execReset_trace {a b : Byte} {s t : State} (h : exec (.reset a b) s = .next t) :
    paramsOk s.params = true ∧
      t.trace = s.trace ++
        frameEvents s.engine (s.engine.opcode :: 0x00 :: resetBytes s.engine.haen s.params.resetNdata) := by
  obtain ⟨hr, h⟩ := State.whenBegun_next h
  obtain rfl := Host.Outcome.next.inj h
  exact ⟨hr.params, State.transact_trace _ s⟩

theorem paramsOk_resetNdata {p : Params} (h : paramsOk p = true) : p.resetNdata = 10 ∨ p.resetNdata = 11 := by
  simp only [paramsOk, Bool.and_eq_true, Bool.or_eq_true, beq_iff_eq] at h
  exact h.2

/-- The burst of RESET carries `haen` in its data byte for IOCON (40_lifecycle.md R88). -/
theorem resetBytes_iocon (haen : Bool) {n : Nat} (hn : 5 < n) :
    (resetBytes haen n)[5]? = some (if haen then 0x08 else 0x00) := by
  simp [resetBytes, resetByte, hn]

/-- The events of a frame tell its bytes. -/
theorem frameEvents_bytes_inj {x y : Engine} {as bs : List Byte} (h : frameEvents x as = frameEvents y bs)
    (hpin : x.csPin = y.csPin) : as = bs := by
  simp only [frameEvents, hpin, List.cons.injEq] at h
  obtain ⟨-, -, h⟩ := h
  exact List.map_injective_iff.mpr (fun a b hab => Event.xfer.inj hab) (List.append_cancel_right h)

theorem begin_trace_haen {a b : Byte} {s t u : State} (ht : exec (.begin a b) (s.withHaen true) = .next t)
    (hu : exec (.begin a b) (s.withHaen false) = .next u) : t.trace ≠ u.trace := by
  intro heq
  rw [execBegin_trace ht, execBegin_trace hu] at heq
  have hlength := congrArg List.length (List.append_cancel_left heq)
  simp [State.withHaen, frameEvents] at hlength

theorem reset_trace_haen {a b : Byte} {s t u : State} (ht : exec (.reset a b) (s.withHaen true) = .next t)
    (hu : exec (.reset a b) (s.withHaen false) = .next u) : t.trace ≠ u.trace := by
  intro heq
  obtain ⟨hp, htrace⟩ := execReset_trace ht
  rw [htrace, (execReset_trace hu).2] at heq
  have hbytes := frameEvents_bytes_inj (List.append_cancel_left heq) rfl
  have hdata : resetBytes true s.params.resetNdata = resetBytes false s.params.resetNdata :=
    (List.cons.inj (List.cons.inj hbytes).2).2
  have hn : 5 < s.params.resetNdata := by
    rcases paramsOk_resetNdata hp with h | h
    · exact h ▸ by decide
    · exact h ▸ by decide
  have hiocon := congrArg (·[5]?) hdata
  simp [resetBytes_iocon _ hn] at hiocon

/-- A chip on line 0 whose HAEN bit is set. -/
def haenChip : Chip := { Chip.atPowerOn 0x00 0 0x00 0x00 with regs := [(0x05, 0x08)] }

/-- An engine constructed with hardware addressing, after BEGIN, that reaches `haenChip`. -/
def haenBench : State :=
  { State.reset with
    engine := { Engine.construct {} { haen := true } with begun := true }
    chips := [haenChip] }

/-- An engine may hold `haen` while the chip it reaches has its HAEN bit clear: after WRITEREGISTER of 0x00 to IOCON. -/
theorem haenBench_iocon_cleared :
    ∃ (s t : State) (c c' : Chip), s.chips = [c] ∧ c.reachedBy s.engine.csPin s.engine.opcode = true ∧
      s.engine.haen = true ∧ c.haenBit = true ∧ exec (.writeregister 0x05 0x00) s = .next t ∧ t.chips = [c'] ∧
      t.engine.haen = true ∧ c'.haenBit = false :=
  ⟨haenBench, _, haenChip, _, rfl, by decide, rfl, by decide, rfl, rfl, rfl, by decide⟩

/-- Settles O20. -/
theorem haenIsWhatConstructionAskedFor : Obligations.HaenIsWhatConstructionAskedFor := by
  refine ⟨fun _ _ => rfl, rfl, fun i s t h => by rw [exec_engine h], fun i s t u hi ht hu => ?_,
    fun i s t h hi hs => haenBlind_exec hi h s t hs, haenBench_iocon_cleared⟩
  cases i with
  | begin a b => exact begin_trace_haen ht hu
  | reset a b => exact reset_trace_haen ht hu
  | _ => cases hi

end Sys2Proof.Machine
end

section
/-! Every operation ends (10_state.md R16, 70_reset_and_hazards.md R168): what one step of `runAlone` leaves, and the
chain of phases of the two composite operations. -/
namespace Sys2Proof.Machine
open Sys2Proof.Safety

/-! ### One step of an operation run alone -/

/-- The meaning answers a next state in which the active caller's operation has just completed. -/
def Completes (s : State) (m : Host.Outcome State Fault Refusal) : Prop :=
  ∃ (u : State) (r : Option Byte), m = .next (u.complete r) ∧ u.callers = s.callers ∧ u.active = s.active

/-- The meaning answers a next state, one transaction on, in which the active caller's operation is in flight at `p`. -/
def GoesOnAt (p : Phase) (i : Instr) (s : State) (m : Host.Outcome State Fault Refusal) : Prop :=
  ∃ bytes, m = .next ((s.transact bytes).2.goOn i p)

/-- The active caller of a ready state is `x`, and its operation stands at phase `p`. -/
structure StandsAt (p : Phase) (s : State) (x : Caller) : Prop where
  ready : Ready s
  phase : s.phase = p
  caller : s.callers[s.active]? = some x

/-- Run alone, the operation is complete after at most `n + 1` steps, counted once, with the caller's words as they
were. -/
def EndsWithin (n : Nat) (i : Instr) (s : State) (x : Caller) : Prop :=
  ∃ t y, runAlone n i s = .next t ∧ t.callers[s.active]? = some y ∧ y.flight = none ∧
    y.completed = x.completed + 1 ∧ y.pending = x.pending

theorem inFlight_of_caller {s : State} {c : Caller} (h : s.callers[s.active]? = some c) :
    inFlight s = c.flight.isSome := by
  simp only [inFlight, h]

theorem State.phase_of_flight {s : State} {c : Caller} {f : Flight} (h : s.callers[s.active]? = some c)
    (hf : c.flight = some f) : s.phase = f.phase := by
  simp only [State.phase, h, hf]

/-- Where one step leaves the operation complete, the run ends. -/
theorem runAlone_of_complete {i : Instr} {s t : State} (n : Nat) (h : exec i s = .next t) (ht : inFlight t = false) :
    runAlone n i s = .next t := by
  cases n with
  | zero => exact h
  | succ n => simp only [runAlone, h, ht, Bool.false_eq_true, if_false]

/-- Where one step leaves the operation in flight, the run goes on there. -/
theorem runAlone_of_inFlight {i : Instr} {s t : State} (n : Nat) (h : exec i s = .next t) (ht : inFlight t = true) :
    runAlone (n + 1) i s = runAlone n i t := by
  simp only [runAlone, h, ht, if_true]

theorem endsWithin_of_completes {i : Instr} {s : State} {x : Caller} {p : Phase} (n : Nat) (hs : StandsAt p s x)
    (h : Completes s (exec i s)) : EndsWithin n i s x := by
  obtain ⟨u, r, hexec, hcallers, hactive⟩ := h
  have hbecome := (CallerBecomes.of_eq (State.complete_callerBecomes r u) hcallers hactive).active x hs.caller
  have hflight : inFlight (u.complete r) = false :=
    inFlight_of_caller (c := completedWith r x) (by rw [State.complete_active, hactive, hbecome])
  exact ⟨_, _, runAlone_of_complete n hexec hflight, hbecome, rfl, rfl, rfl⟩

theorem endsWithin_of_goesOnAt {i : Instr} {s : State} {x : Caller} {p q : Phase} {n : Nat} (hs : StandsAt p s x)
    (h : GoesOnAt q i s (exec i s))
    (hrest : ∀ t y, t.params = s.params → StandsAt q t y → EndsWithin n i t y) : EndsWithin (n + 1) i s x := by
  obtain ⟨bytes, hexec⟩ := h
  have hbecome : ((s.transact bytes).2.goOn i q).callers[s.active]? = some (goingOn i q x) :=
    (CallerBecomes.of_eq (State.goOn_callerBecomes i q _) (by simp) (by simp)).active x hs.caller
  have hcaller : ((s.transact bytes).2.goOn i q).callers[((s.transact bytes).2.goOn i q).active]? =
      some (goingOn i q x) := by
    rw [State.goOn_active, State.transact_active, hbecome]
  have hstands : StandsAt q ((s.transact bytes).2.goOn i q) (goingOn i q x) :=
    ⟨⟨by simpa using hs.ready.params, by simpa using hs.ready.begun⟩, State.phase_of_flight hcaller rfl, hcaller⟩
  obtain ⟨t, y, hrun, hy, hend⟩ := hrest _ _ (by simp) hstands
  rw [State.goOn_active, State.transact_active] at hy
  exact ⟨t, y, (runAlone_of_inFlight n hexec (inFlight_of_caller hcaller)).trans hrun, hy, hend⟩

/-! ### What the shared shapes answer -/

theorem completes_transact_finish (bytes : List Byte) (r : Option Byte) (s : State) :
    Completes s ((s.transact bytes).2.finish r) := ⟨_, r, rfl, by simp, by simp⟩

theorem completes_writeOnly {s : State} (hr : Ready s) (addr v : Byte) : Completes s (s.writeOnly addr v) := by
  rw [State.writeOnly, State.whenBegun_of_ready hr]
  exact completes_transact_finish _ _ s

theorem completes_readOnly {s : State} (hr : Ready s) (addr : Byte) (view : Byte → Byte) :
    Completes s (s.readOnly addr view) := by
  rw [State.readOnly, State.whenBegun_of_ready hr]
  exact completes_transact_finish _ _ s

theorem completes_ignored {s : State} (hr : Ready s) (r : Option Byte) : Completes s (s.ignored r) := by
  rw [State.ignored, State.whenBegun_of_ready hr]
  exact ⟨s, r, rfl, rfl, rfl⟩

theorem goesOnAt_pairRead {s : State} (hr : Ready s) (i : Instr) (addr : Byte) (next : Byte → Phase) :
    ∃ b, GoesOnAt (next b) i s (s.pairRead i addr next) := by
  rw [State.pairRead, State.whenBegun_of_ready hr]
  exact ⟨_, _, rfl⟩

theorem completes_begin {s : State} (hr : Ready s) (a b : Byte) : Completes s (exec (.begin a b) s) :=
  ⟨s.begunState, none, if_pos hr.params, by simp, by simp⟩

theorem completes_reset {s : State} (hr : Ready s) (a b : Byte) : Completes s (exec (.reset a b) s) := by
  rw [show exec (.reset a b) s = s.whenBegun ((s.memWriteSeq 0x00 s.resetData).finish none) from rfl,
    State.whenBegun_of_ready hr]
  exact completes_transact_finish _ _ s

/-! ### The operations -/

theorem readpin_completes {s : State} (hr : Ready s) (pin b : Byte) : Completes s (exec (.readpin pin b) s) := by
  cases hp : pinOk pin with
  | false => exact exec_readpin_bad b s hp ▸ completes_ignored hr _
  | true => exact exec_readpin_ok b s hp ▸ completes_readOnly hr _ _

/-- WRITEPIN (41_pin_ops.md R102) is over after its pair. -/
theorem writepin_ends {s : State} {x : Caller} (hs : StandsAt .read0 s x) (n : Nat) (pin state : Byte) :
    EndsWithin (n + 1) (.writepin pin state) s x := by
  cases hp : pinOk pin with
  | false => exact endsWithin_of_completes _ hs (exec_writepin_bad state hp ▸ completes_ignored hs.ready _)
  | true =>
    obtain ⟨r, hread⟩ := goesOnAt_pairRead hs.ready (.writepin pin state) regOLAT .write0
    rw [← exec_writepin_read0 state hp hs.phase] at hread
    exact endsWithin_of_goesOnAt hs hread fun t y _ ht =>
      endsWithin_of_completes _ ht (exec_writepin_write0 state hp ht.phase ▸ completes_writeOnly ht.ready _ _)

section Setpinmode
variable {pin mode : Byte} {s : State} {x : Caller} (hp : (pinOk pin && modeOk s.params mode) = true)
include hp

theorem setpinmode_ends_write1 {q : Byte} (hs : StandsAt (.write1 q) s x) (n : Nat) :
    EndsWithin n (.setpinmode pin mode) s x :=
  endsWithin_of_completes _ hs (exec_setpinmode_write1 hp hs.phase ▸ completes_writeOnly hs.ready _ _)

theorem setpinmode_ends_read1 (hs : StandsAt .read1 s x) (n : Nat) :
    EndsWithin (n + 1) (.setpinmode pin mode) s x := by
  obtain ⟨q, hread⟩ := goesOnAt_pairRead hs.ready (.setpinmode pin mode) regGPPU .write1
  rw [← exec_setpinmode_read1 hp hs.phase] at hread
  exact endsWithin_of_goesOnAt hs hread fun t y hparams ht => setpinmode_ends_write1 (hparams ▸ hp) ht n

theorem setpinmode_ends_write0 {r : Byte} (hs : StandsAt (.write0 r) s x) (n : Nat) :
    EndsWithin (n + 2) (.setpinmode pin mode) s x := by
  have hwrite : GoesOnAt .read1 (.setpinmode pin mode) s (exec (.setpinmode pin mode) s) := by
    rw [exec_setpinmode_write0 hp hs.phase, State.whenBegun_of_ready hs.ready]
    exact ⟨_, rfl⟩
  exact endsWithin_of_goesOnAt hs hwrite fun t y hparams ht => setpinmode_ends_read1 (hparams ▸ hp) ht n

theorem setpinmode_ends_read0 (hs : StandsAt .read0 s x) (n : Nat) :
    EndsWithin (n + 3) (.setpinmode pin mode) s x := by
  obtain ⟨r, hread⟩ := goesOnAt_pairRead hs.ready (.setpinmode pin mode) regIODIR .write0
  rw [← exec_setpinmode_read0 hp hs.phase] at hread
  exact endsWithin_of_goesOnAt hs hread fun t y hparams ht => setpinmode_ends_write0 (hparams ▸ hp) ht n

end Setpinmode

/-- SETPINMODE (41_pin_ops.md R103) is over after its two pairs. -/
theorem setpinmode_ends {s : State} {x : Caller} (hs : StandsAt .read0 s x) (n : Nat) (pin mode : Byte) :
    EndsWithin (n + 3) (.setpinmode pin mode) s x := by
  cases hp : pinOk pin && modeOk s.params mode with
  | false => exact endsWithin_of_completes _ hs (exec_setpinmode_bad hp ▸ completes_ignored hs.ready _)
  | true => exact setpinmode_ends_read0 hp hs n

/-- Settles O45: WRITEPIN takes two steps, SETPINMODE four, and every other instruction one. -/
theorem operationsEndWithinFourTransactions : Obligations.OperationsEndWithinFourTransactions := by
  intro i s x hr hi hphase hx
  have hs : StandsAt .read0 s x := ⟨hr, hphase, hx⟩
  have atOnce : Completes s (exec i s) → EndsWithin 3 i s x := endsWithin_of_completes 3 hs
  cases i with
  | begin a b => exact atOnce (completes_begin hr a b)
  | reset a b => exact atOnce (completes_reset hr a b)
  | readpin pin b => exact atOnce (readpin_completes hr pin b)
  | writepin pin state => exact writepin_ends hs 2 pin state
  | setpinmode pin mode => exact setpinmode_ends hs 0 pin mode
  | setoutputstates byte b => exact atOnce (completes_writeOnly hr _ _)
  | getoutputstates a b => exact atOnce (completes_readOnly hr _ _)
  | setpinmodes byte b => exact atOnce (completes_writeOnly hr _ _)
  | getpinmodes a b => exact atOnce (completes_readOnly hr _ _)
  | enablepullups byte b => exact atOnce (completes_writeOnly hr _ _)
  | getenabledpullups a b => exact atOnce (completes_readOnly hr _ _)
  | writeregister address data => exact atOnce (completes_writeOnly hr _ _)
  | readregister address b => exact atOnce (completes_readOnly hr _ _)
  | reservedD a b => cases hi
  | reservedE a b => cases hi
  | reservedF a b => cases hi
  | opcodeByte aa read => exact atOnce (completes_transact_finish _ _ s)
  | writeFrame aa address data => exact atOnce (completes_transact_finish _ _ s)
  | readFrame aa address dummy => exact atOnce (completes_transact_finish _ _ s)
  | resetBurstFrame aa haen ndata => exact atOnce (completes_transact_finish _ _ s)

end Sys2Proof.Machine
end

section
/-! Who is inside a read-then-write pair (20_memory.md R48), what a caller's turn finds to run, and what a turn of the
environment changes. -/
namespace Sys2Proof.Machine
open Sys2Proof.Safety

/-! ### Holders of a pair -/

theorem State.holdsPair_iff {s : State} {j : Nat} :
    s.holdsPair j = true ↔ ∃ c, s.callers[j]? = some c ∧ c.holdsPair = true := by
  cases h : s.callers[j]? with
  | none => simp [State.holdsPair, h]
  | some c => simp [State.holdsPair, h]

/-- Whether a caller holds a pair rests on its own record. -/
theorem State.holdsPair_congr {s t : State} {j : Nat} (h : t.callers[j]? = s.callers[j]?) :
    t.holdsPair j = s.holdsPair j := by
  simp only [State.holdsPair, h]

/-- When a turn must wait (R48): an operation of the engine, under HARDEN_RMW, while another caller holds a pair. -/
theorem State.blocked_iff {s : State} {k : Nat} {i : Instr} :
    s.blocked k i = true ↔
      s.params.hardenRmw = true ∧ isOperation i = true ∧ ∃ j, j ≠ k ∧ s.holdsPair j = true := by
  have inRange : ∀ j, s.holdsPair j = true → j < s.callers.length := fun j h => by
    obtain ⟨c, hc, -⟩ := State.holdsPair_iff.mp h
    exact (List.getElem?_eq_some_iff.mp hc).1
  simp only [State.blocked, Bool.and_eq_true, List.any_eq_true, List.mem_range, bne_iff_ne, and_assoc]
  exact and_congr_right fun _ => and_congr_right fun _ => exists_congr fun j =>
    ⟨fun h => h.2, fun h => ⟨inRange j h.2, h⟩⟩

/-- Accepting a word makes nobody a holder: the accepting caller stands at phase 0. -/
theorem State.holdsPair_of_accept {s : State} {k j : Nat} {i : Instr} (h : (s.accept k i).holdsPair j = true) :
    s.holdsPair j = true := by
  by_cases hj : k = j
  · subst hj
    obtain ⟨c, hc, hold⟩ := State.holdsPair_iff.mp h
    rw [State.accept_callers, List.getElem?_modify_eq] at hc
    obtain ⟨d, -, rfl⟩ := Option.map_eq_some_iff.mp hc
    exact nomatch hold
  · rwa [State.holdsPair_congr (s := s) (by simp [hj])] at h

/-- An instruction makes no caller but the active one a holder, nor ends another's pair. -/
theorem exec_holdsPair_of_ne {i : Instr} {s t : State} (h : exec i s = .next t) {j : Nat} (hj : j ≠ s.active) :
    t.holdsPair j = s.holdsPair j := by
  obtain ⟨g, hg, -⟩ := exec_callers h
  exact State.holdsPair_congr (hg.others j hj)

/-- A caller that has just completed holds no pair. -/
theorem State.complete_holdsPair_active (r : Option Byte) (s : State) :
    (s.complete r).holdsPair s.active = false := by
  cases h : s.callers[s.active]? with
  | none => simp [State.holdsPair, h]
  | some c => simp [State.holdsPair, h, Caller.holdsPair]

/-- Only an operation of the engine leaves its caller inside a pair. -/
theorem exec_isOperation_of_holdsPair {i : Instr} {s t : State} (h : exec i s = .next t)
    (ht : t.holdsPair s.active = true) : isOperation i = true := by
  have notCompleted : ∀ (u : State) (r : Option Byte), u.active = s.active → t = u.complete r → False := by
    rintro u r hu rfl
    rw [← hu, State.complete_holdsPair_active] at ht
    exact nomatch ht
  obtain ⟨-, -, rfl⟩ | ⟨-, -, r, rfl⟩ | ⟨-, b0, rest, r, -, rfl⟩ | ⟨-, b0, rest, p, hi, -⟩ := exec_next h
  · exact (notCompleted _ _ (by simp) rfl).elim
  · exact (notCompleted _ _ rfl rfl).elim
  · exact (notCompleted _ _ (by simp) rfl).elim
  · exact hi

/-- An instruction that need not wait keeps it so that at most one caller is inside a pair. -/
theorem exec_oneHolder {i : Instr} {s t : State} (hs : OneHolder s) (hfree : s.blocked s.active i = false)
    (h : exec i s = .next t) : OneHolder t := by
  intro hharden
  rw [exec_params h] at hharden
  have stillHolds : ∀ {j}, j ≠ s.active → t.holdsPair j = true → s.holdsPair j = true := fun hj hold =>
    exec_holdsPair_of_ne h hj ▸ hold
  by_cases hactive : t.holdsPair s.active = true
  · have alone : ∀ j, t.holdsPair j = true → j = s.active := fun j hold => by
      by_contra hj
      have hblocked := State.blocked_iff.mpr
        ⟨hharden, exec_isOperation_of_holdsPair h hactive, j, hj, stillHolds hj hold⟩
      exact nomatch hblocked.symm.trans hfree
    exact fun j k hj hk => (alone j hj).trans (alone k hk).symm
  · have notActive : ∀ {j}, t.holdsPair j = true → j ≠ s.active := fun hold e => hactive (e ▸ hold)
    exact fun j k hj hk => hs hharden j k (stillHolds (notActive hj) hj) (stillHolds (notActive hk) hk)

/-- In the state an instruction runs in there is still at most one holder, and the instruction need not wait. -/
theorem fetch_run_oneHolder {k : Nat} {s s' : State} {i : Instr} (hs : OneHolder s) (h : s.fetch k = .run i s') :
    OneHolder s' ∧ s'.blocked k i = false := by
  obtain ⟨c, -, hfree, ⟨p, -, rfl⟩ | ⟨-, w, ws, -, -, rfl⟩⟩ := State.fetch_run h
  · exact ⟨hs, hfree⟩
  · refine ⟨fun hharden j l hj hl =>
      hs hharden j l (State.holdsPair_of_accept hj) (State.holdsPair_of_accept hl), ?_⟩
    rw [Bool.eq_false_iff] at hfree ⊢
    intro hblocked
    obtain ⟨hharden, hi, j, hj, hold⟩ := State.blocked_iff.mp hblocked
    exact hfree (State.blocked_iff.mpr ⟨hharden, hi, j, hj, State.holdsPair_of_accept hold⟩)

/-- After a construction nobody is inside a pair. -/
theorem State.construct_holdsPair (ci : ConstructInputs) (s : State) (j : Nat) :
    (s.construct ci).holdsPair j = false := by
  rw [Bool.eq_false_iff]
  intro h
  obtain ⟨c, hc, hold⟩ := State.holdsPair_iff.mp h
  rw [State.construct_callers, List.getElem?_map] at hc
  obtain ⟨d, -, rfl⟩ := Option.map_eq_some_iff.mp hc
  exact nomatch hold

/-- Settles O16, turn by turn: an instruction that takes its caller into a pair is an operation of the engine, so it ran
because no other caller held one. -/
theorem stepKeepsOneHolder : Obligations.StepKeepsOneHolder := by
  intro s t hs h
  obtain ⟨-, rfl⟩ | ⟨j, v, rest, -, rfl⟩ | ⟨j, rest, -, rfl⟩ | ⟨ci, rest, -, rfl⟩ | ⟨k, rest, -, rfl⟩ |
    ⟨k, rest, i, s', -, hf, he⟩ := step_next h
  · exact hs
  · exact hs
  · exact hs
  · intro _ j k hj
    rw [State.construct_holdsPair] at hj
    exact nomatch hj
  · exact hs
  · have hactive : s'.active = k := by
      rcases State.fetch_run_state hf with rfl | rfl
      · rfl
      · rfl
    obtain ⟨hs', hfree⟩ := fetch_run_oneHolder (s := { s with schedule := rest, active := k }) hs hf
    exact exec_oneHolder hs' (hactive.symm ▸ hfree) he

/-! ### What a caller's turn runs -/

/-- A caller's turn looks at what its record says comes next, and runs it unless it must wait. -/
theorem State.fetch_of_nextInstr {k : Nat} {s : State} {c : Caller} {i : Instr} (hc : s.callers[k]? = some c)
    (hi : nextInstr c = some i) :
    (s.blocked k i = true → s.fetch k = .idle) ∧ (s.blocked k i = false → ∃ s', s.fetch k = .run i s') := by
  cases hf : c.flight with
  | some f =>
    obtain rfl : f.op = i := by simpa [nextInstr, hf] using hi
    exact ⟨fun hb => by simp [State.fetch, hc, hf, hb], fun hb => ⟨s, by simp [State.fetch, hc, hf, hb]⟩⟩
  | none =>
    cases hw : c.pending with
    | nil => simp [nextInstr, hf, hw] at hi
    | cons w ws =>
      cases hd : decode w with
      | error e => simp [nextInstr, hf, hw, hd] at hi
      | ok j =>
        obtain rfl : j = i := by simpa [nextInstr, hf, hw, hd] using hi
        exact ⟨fun hb => by simp [State.fetch, hc, hf, hw, hd, hb],
          fun hb => ⟨s.accept k j, by simp [State.fetch, hc, hf, hw, hd, hb]⟩⟩

section CallerTurn
variable {s : State} {k : Nat} {rest : List Turn}

theorem step_of_fetch_idle (hp : paramsOk s.params = true) (hs : s.schedule = .caller k :: rest)
    (hf : State.fetch k { s with schedule := rest, active := k } = .idle) :
    step s = .next { s with schedule := rest, active := k } := by
  simp only [step, hp, hs, hf, if_true]

theorem step_of_fetch_run {s' : State} {i : Instr} (hp : paramsOk s.params = true)
    (hs : s.schedule = .caller k :: rest)
    (hf : State.fetch k { s with schedule := rest, active := k } = .run i s') : step s = exec i s' := by
  simp only [step, hp, hs, hf, if_true]

end CallerTurn

/-- Settles O55: the holder blocks the other caller's operation, so its turn finds nothing to run. -/
theorem hardenedPairExcludesOthers : Obligations.HardenedPairExcludesOthers := by
  intro s j k rest c i hp hharden hs hjk hold hc hi hop
  have hblocked : State.blocked { s with schedule := rest, active := k } k i = true :=
    State.blocked_iff.mpr ⟨hharden, hop, j, hjk, hold⟩
  have hidle := (State.fetch_of_nextInstr (s := { s with schedule := rest, active := k }) hc hi).1 hblocked
  exact step_of_fetch_idle hp hs hidle

/-- A frame of another driver (30_encoding.md R60, R63 to R65) is run in every state, as one transaction of its own
bytes. -/
theorem exec_of_frame {i : Instr} (hi : isOperation i = false) (s : State) :
    ∃ r, exec i s = .next ((s.transact (encode i)).2.complete r) := by
  cases i with
  | opcodeByte aa read => exact ⟨_, rfl⟩
  | writeFrame aa address data => exact ⟨_, rfl⟩
  | readFrame aa address dummy => exact ⟨_, rfl⟩
  | resetBurstFrame aa haen ndata => exact ⟨_, rfl⟩
  | _ => cases hi

/-- Settles O56: only an operation of the engine can be blocked. -/
theorem otherDriversAreNotExcluded : Obligations.OtherDriversAreNotExcluded := by
  intro s k rest c i hp hs hc hi hop
  have hfree : State.blocked { s with schedule := rest, active := k } k i = false := by
    rw [Bool.eq_false_iff]
    intro hblocked
    obtain ⟨-, hoperation, -⟩ := State.blocked_iff.mp hblocked
    exact nomatch hoperation.symm.trans hop
  obtain ⟨s', hf⟩ := (State.fetch_of_nextInstr (s := { s with schedule := rest, active := k }) hc hi).2 hfree
  obtain ⟨r, hexec⟩ := exec_of_frame hop s'
  have hkept : s'.trace = s.trace ∧ s'.engine = s.engine := by
    rcases State.fetch_run_state hf with rfl | rfl
    · exact ⟨rfl, rfl⟩
    · exact ⟨rfl, rfl⟩
  refine ⟨_, (step_of_fetch_run hp hs hf).trans hexec, ?_⟩
  rw [State.complete_trace, State.transact_trace, hkept.1, hkept.2]

/-! ### Turns of the environment -/

section EnvironmentTurn
variable {s : State} {rest : List Turn} {j : Nat}

theorem step_of_pins {v : Byte} (hp : paramsOk s.params = true) (hs : s.schedule = .pins j v :: rest) :
    step s = .next (State.setPins j v { s with schedule := rest }) := by
  simp only [step, hp, hs, if_true]

theorem step_of_power (hp : paramsOk s.params = true) (hs : s.schedule = .power j :: rest) :
    step s = .next (State.powerCycle j { s with schedule := rest }) := by
  simp only [step, hp, hs, if_true]

end EnvironmentTurn

/-- Settles O52: either turn modifies the list of chips at one place, and a power cycle leaves no register listed. -/
theorem environmentTouchesOnlyTheChip : Obligations.EnvironmentTouchesOnlyTheChip := by
  intro s j levels rest c hp hc
  have others : ∀ (f : Chip → Chip) (k : Nat), k ≠ j → (s.chips.modify j f)[k]? = s.chips[k]? := fun f k hk => by
    simp [Ne.symm hk]
  refine ⟨fun hs => ⟨_, step_of_pins hp hs, rfl, ?_, others _⟩, fun hs =>
    ⟨_, c.powerCycle (Config.draw s.draws) (Config.draw (s.draws + 1)), step_of_power hp hs, rfl, ?_, rfl, rfl, rfl,
      fun a ha => if_neg (Nat.ne_of_gt ha), others _⟩⟩
  · simp [hc]
  · simp [hc]

end Sys2Proof.Machine
end

section
/-! One transaction, chip by chip: which chips an opcode byte reaches (20_memory.md R45), what a write, a read and a
burst do at those (R51 to R54), and the access primitives as whole transactions (R36 to R38). -/
namespace Sys2Proof.Machine
open Sys2Proof.Safety

/-! ### Device selection -/

theorem isWireOpcode_iff (b : Byte) : isWireOpcode b = true ↔ 0x40 ≤ b.toNat ∧ b.toNat ≤ 0x47 := by
  have hb : b.toNat < 256 := b.isLt
  rw [isWireOpcode, beq_iff_eq, ← BitVec.toNat_inj]
  simp only [BitVec.extractLsb'_toNat, Nat.shiftRight_eq_div_pow, BitVec.toNat_ofNat]
  omega

theorem opcodeAddress_toNat (b : Byte) : (opcodeAddress b).toNat = (b.toNat / 2) % 4 := by
  simp [opcodeAddress, BitVec.extractLsb'_toNat, Nat.shiftRight_eq_div_pow]

theorem Chip.selectedBy_iff (c : Chip) (b0 : Byte) :
    c.selectedBy b0 = true ↔ isWireOpcode b0 = true ∧ (c.haenBit = true → opcodeAddress b0 = c.hwaddr) := by
  cases h : c.haenBit
  · simp [Chip.selectedBy, h]
  · simp [Chip.selectedBy, h]

/-- Settles O9: the two bit fields of the opcode byte, read as numbers. -/
theorem deviceSelection : Obligations.DeviceSelection := by
  intro c line b0
  rw [Chip.reachedBy_iff, Chip.selectedBy_iff, isWireOpcode_iff, and_assoc, Chip.haenBit,
    ← BitVec.toNat_inj (x := opcodeAddress b0), opcodeAddress_toNat]

/-- The read opcode differs in bit 0 alone (R39), which selects no chip. -/
theorem Chip.reachedBy_readOpcode (c : Chip) (line b0 : Byte) :
    c.reachedBy line (readOpcode b0) = c.reachedBy line b0 := by
  have hprefix : isWireOpcode (readOpcode b0) = isWireOpcode b0 := by
    simp [isWireOpcode, readOpcode, BitVec.extractLsb'_or]
  have haddress : opcodeAddress (readOpcode b0) = opcodeAddress b0 := by
    simp [opcodeAddress, readOpcode, BitVec.extractLsb'_or]
  simp only [Chip.reachedBy, Chip.selectedBy, hprefix, haddress]

theorem Chip.reachedBy_own {s : State} {b0 : Byte} (h : OwnOpcode s b0) (c : Chip) (line : Byte) :
    c.reachedBy line b0 = c.reachedBy line s.engine.opcode := by
  rcases h with rfl | rfl
  · rfl
  · exact c.reachedBy_readOpcode line _

theorem opcode_bit0_of_sound {s : State} (h : Sound s) : s.engine.opcode.getLsbD 0 = false := by
  have hlegal := h.opcode
  simp only [legalOpcode, Bool.and_eq_true, Bool.not_eq_true'] at hlegal
  exact hlegal.2

theorem regs_wf_of_sound {s : State} (h : Sound s) {c : Chip} (hc : c ∈ s.chips) : c.regs.wf = true :=
  ((chipInv_iff c).mp (h.chips c hc)).1

/-! ### A frame at one chip -/

/-- A data byte is stored at its own address, for GPIO at OLAT, and past the map nowhere (R52, R54; log 15, 16). -/
theorem storeAddress_eq (p : Byte) :
    storeAddress p = if p.toNat = 0x09 then some 0x0A else if p.toNat ≤ 0x0A then some p.toNat else none := by
  simp only [storeAddress, ← BitVec.toNat_inj]
  rfl

theorem Chip.readByte_eq (c : Chip) (p : Byte) :
    c.readByte p =
      if p.toNat = 0x09 then some c.pins else if p.toNat ≤ 0x0A then some (c.regs.read p.toNat) else none := by
  simp only [Chip.readByte, ← BitVec.toNat_inj]
  rfl

section Receive
variable {c : Chip} {line b0 : Byte}

theorem Chip.receive_untouched (h : c.reachedBy line b0 = false) (rest : List Byte) :
    Untouched c (c.receive line (b0 :: rest)) := by
  rw [Chip.receive_unreached c line b0 rest h]
  exact ⟨rfl, rfl, rfl, rfl, fun _ => rfl⟩

theorem Chip.receive_written (h : c.reachedBy line b0 = true) (hw : b0.getLsbD 0 = false) (hwf : c.regs.wf = true)
    (addr v : Byte) : Written addr v c (c.receive line [b0, addr, v]) := by
  rw [Chip.receive_write c line b0 addr v h hw]
  have hread := fun a => Chip.writeData_read { c with ptr := addr } v a hwf
  exact ⟨rfl, rfl, rfl, rfl, fun a ha => (hread a).trans (if_pos ha), fun a ha => (hread a).trans (if_neg ha)⟩

theorem Chip.receive_answered (h : c.reachedBy line b0 = true) (hr : b0.getLsbD 0 = true) (addr v : Byte) :
    Answered addr c (c.receive line [b0, addr, v]) := by
  rw [Chip.receive_read c line b0 addr v h hr]
  exact ⟨rfl, rfl, rfl, rfl, fun _ => rfl⟩

end Receive

/-- Every address of a chip after one data byte (R52, R54). -/
theorem read_of_written {addr v : Byte} {c c' : Chip} (h : Written addr v c c') (a : Nat) :
    c'.regs.read a = if storeAddress addr = some a then v else c.regs.read a := by
  split
  · next ha => exact h.stored a ha
  · next ha => exact h.others a ha

/-- The chip took the data bytes from its pointer on (R52): each in its own address, no other register changed, and the
pointer one past the last. -/
structure Filled (data : List Byte) (c c' : Chip) : Prop where
  line : c'.line = c.line
  hwaddr : c'.hwaddr = c.hwaddr
  pins : c'.pins = c.pins
  ptr : c'.ptr = c.ptr + BitVec.ofNat 8 data.length
  stored : ∀ (i : Nat) (v : Byte), data[i]? = some v → c'.regs.read (c.ptr.toNat + i) = v
  others : ∀ a, a < c.ptr.toNat ∨ c.ptr.toNat + data.length ≤ a → c'.regs.read a = c.regs.read a

/-- Data bytes that stay below GPIO fill successive addresses. -/
theorem Chip.foldl_writeData_filled (data : List Byte) (c : Chip) (hwf : c.regs.wf = true)
    (hfit : c.ptr.toNat + data.length ≤ 0x09) : Filled data c (data.foldl Chip.writeData c) := by
  induction data generalizing c with
  | nil => exact ⟨rfl, rfl, rfl, (BitVec.add_zero _).symm, fun i v hv => (nomatch hv), fun _ _ => rfl⟩
  | cons v data ih =>
    rw [List.length_cons] at hfit
    have hptr : (c.writeData v).ptr = c.ptr + 1 := if_neg fun e => by
      have htop : c.ptr.toNat = 0xFF := congrArg BitVec.toNat e
      omega
    have hnext : (c.writeData v).ptr.toNat = c.ptr.toNat + 1 := by
      rw [hptr, BitVec.toNat_add, show (1 : Byte).toNat = 1 from rfl]
      omega
    have hstore : storeAddress c.ptr = some c.ptr.toNat := by
      rw [storeAddress_eq, if_neg (by omega), if_pos (by omega)]
    have hfirst := fun a => Chip.writeData_read c v a hwf
    obtain ⟨hline, hhwaddr, hpins, hend, hstored, hothers⟩ :=
      ih (c.writeData v) (Chip.writeData_wf c v hwf) (by omega)
    refine ⟨hline, hhwaddr, hpins, ?_, fun i w hw => ?_, fun a ha => ?_⟩
    · rw [List.foldl_cons, hend, hptr, List.length_cons, BitVec.ofNat_add, BitVec.add_assoc,
        BitVec.add_comm (BitVec.ofNat 8 data.length)]
      rfl
    · cases i with
      | zero =>
        obtain rfl : v = w := by simpa using hw
        exact (hothers _ (by omega)).trans ((hfirst _).trans (if_pos hstore))
      | succ i =>
        have hrest := hstored i w (by simpa using hw)
        rwa [hnext, Nat.add_assoc, Nat.add_comm 1] at hrest
    · rw [List.length_cons] at ha
      rw [List.foldl_cons, hothers a (by omega), hfirst, hstore, if_neg]
      intro e
      have := Option.some.inj e
      omega

/-- A burst at a chip it reaches, below GPIO (R38, R52). -/
theorem Chip.receive_filled {c : Chip} {line b0 addr : Byte} {data : List Byte} (h : c.reachedBy line b0 = true)
    (hw : b0.getLsbD 0 = false) (hwf : c.regs.wf = true) (hfit : addr.toNat + data.length ≤ 0x09) :
    Filled data { c with ptr := addr } (c.receive line (b0 :: addr :: data)) := by
  rw [Chip.receive_burst c line b0 addr data h hw]
  obtain ⟨hline, hhwaddr, hpins, hend, hstored, hothers⟩ :=
    Chip.foldl_writeData_filled data { c with ptr := addr } hwf hfit
  exact ⟨hline, hhwaddr, hpins, hend, hstored, hothers⟩

/-! ### A frame at every chip -/

/-- A transaction changes the chips its first byte reaches, as the frame changes each, and no other. -/
theorem State.transact_chipsBecome {P : Chip → Chip → Prop} (b0 : Byte) (rest : List Byte) (s : State)
    (hP : ∀ c ∈ s.chips, c.reachedBy s.engine.csPin b0 = true → P c (c.receive s.engine.csPin (b0 :: rest))) :
    ChipsBecome b0 P s (s.transact (b0 :: rest)).2 := by
  rw [ChipsBecome, State.transact_chips]
  refine ⟨List.length_map _, fun k c c' hc hc' => ?_⟩
  obtain rfl : c.receive s.engine.csPin (b0 :: rest) = c' := by simpa [hc] using hc'
  exact ⟨hP c (List.mem_of_getElem? hc), fun h => Chip.receive_untouched h rest⟩

@[simp] theorem State.transact_schedule (bytes : List Byte) (s : State) :
    (s.transact bytes).2.schedule = s.schedule := by rw [State.transact_snd]

theorem State.transact_sameSetting (bytes : List Byte) (s : State) : SameSetting s (s.transact bytes).2 :=
  ⟨by simp, by simp, by simp⟩

/-- Settles O6. -/
theorem memWriteIsOneTransaction : Obligations.MemWriteIsOneTransaction := by
  intro addr v s hs
  exact ⟨{
    setting := State.transact_sameSetting _ s
    engine := State.transact_engine _ s
    trace := State.transact_trace _ s
    chips := State.transact_chipsBecome _ _ s fun c hc hreached =>
      Chip.receive_written hreached (opcode_bit0_of_sound hs) (regs_wf_of_sound hs hc) addr v
    csOutput := by rw [State.memWrite, State.transact_bus]
    asserted := by rw [State.memWrite, State.transact_bus]
    txnOpen := by rw [State.memWrite, State.transact_bus] }, State.transact_callers _ s⟩

/-- Settles O8: the frame of the burst at each chip it reaches is `Chip.receive_filled`. -/
theorem memWriteSeqAutoIncrements : Obligations.MemWriteSeqAutoIncrements := by
  intro addr data s hs hfit
  refine ⟨State.transact_trace _ s, State.transact_engine _ s, State.transact_callers _ s,
    State.transact_sameSetting _ s, State.transact_chipsBecome _ _ s fun c hc hreached => ?_⟩
  obtain ⟨hline, hhwaddr, hpins, hend, hstored, hothers⟩ :=
    Chip.receive_filled hreached (opcode_bit0_of_sound hs) (regs_wf_of_sound hs hc) hfit
  exact ⟨hstored, hothers, hend, hpins, hline, hhwaddr⟩

/-! ### The byte a read receives -/

/-- The one chip reached is the one that the choice among all chips leaves. -/
theorem filter_reachedBy_of_sole {s : State} {k : Nat} {c : Chip} (h : SoleChip s k c) {b0 : Byte}
    (hown : OwnOpcode s b0) : s.chips.filter (Chip.reachedBy s.engine.csPin b0) = [c] := by
  have filter_sole : ∀ (p : Chip → Bool) (cs : List Chip) (k : Nat), cs[k]? = some c → p c = true →
      (∀ j d, j ≠ k → cs[j]? = some d → p d = false) → cs.filter p = [c] := by
    intro p cs
    induction cs with
    | nil => intro k hk; simp at hk
    | cons d cs ih =>
      intro k hk hc hothers
      cases k with
      | zero =>
        obtain rfl : d = c := by simpa using hk
        have hnone : cs.filter p = [] := List.filter_eq_nil_iff.mpr fun e he => by
          obtain ⟨j, hj⟩ := List.mem_iff_getElem?.mp he
          simp [hothers (j + 1) e (by omega) (by simpa using hj)]
        rw [List.filter_cons_of_pos hc, hnone]
      | succ k =>
        rw [List.filter_cons_of_neg (by simp [hothers 0 d (by omega) rfl])]
        exact ih k (by simpa using hk) hc fun j e hj he => hothers (j + 1) e (by omega) (by simpa using he)
  refine filter_sole _ _ k h.there ?_ fun j d hj hd => ?_
  · rw [Chip.reachedBy_own hown]
    exact h.reached
  · rw [Chip.reachedBy_own hown]
    exact h.alone j d hj hd

/-- The engine's read of the one chip it reaches: its answer, and a draw where it gives none (R53). -/
theorem ownRead_of_sole {s : State} {k : Nat} {c : Chip} (h : SoleChip s k c) (addr : Byte) :
    ownRead s addr = (c.readByte addr).getD (Config.draw (s.draws + 2)) := by
  simp only [Safety.ownRead, received, filter_reachedBy_of_sole h (b0 := s.engine.opcode ||| 1) (.inr rfl)]

/-- The engine's read when no chip is reached is a draw (R57). -/
theorem ownRead_of_unreached {s : State} (addr : Byte)
    (h : ∀ c ∈ s.chips, c.reachedBy s.engine.csPin (s.engine.opcode ||| 1) = false) :
    ownRead s addr = Config.draw (s.draws + 2) := by
  have hnone : s.chips.filter (Chip.reachedBy s.engine.csPin (s.engine.opcode ||| 1)) = [] :=
    List.filter_eq_nil_iff.mpr fun c hc => by rw [h c hc]; exact Bool.false_ne_true
  simp only [ownRead, received, hnone]

/-- Settles O7. Soundness is not needed: bit 0 of a read opcode is set whatever the stored opcode is. -/
theorem memReadIsOneTransaction : Obligations.MemReadIsOneTransaction := by
  intro addr s
  refine ⟨{
    setting := State.transact_sameSetting _ s
    engine := State.transact_engine _ s
    trace := State.transact_trace _ s
    chips := State.transact_chipsBecome _ _ s fun c _ hreached =>
      Chip.receive_answered hreached (readOpcode_bit0 _) addr _
    csOutput := by rw [State.memRead, State.transact_bus]
    asserted := by rw [State.memRead, State.transact_bus]
    txnOpen := by rw [State.memRead, State.transact_bus] }, State.transact_callers _ s, State.memRead_fst addr s,
    fun k c b hsole hb => ?_, fun hnone => ⟨s.draws + 2, ?_⟩⟩
  · rw [State.memRead_fst, ownRead_of_sole hsole, hb, Option.getD_some]
  · rw [State.memRead_fst, ownRead_of_unreached addr hnone]

/-! ### WRITEREGISTER and READREGISTER at the one chip reached -/

/-- Where one chip is reached, what a transaction makes of the chips it makes of that one alone. -/
theorem chipsBecome_of_sole {s t : State} {n : Nat} {c : Chip} (h : SoleChip s n c) {op : Byte}
    (hown : OwnOpcode s op) {P : Chip → Chip → Prop} (hP : ChipsBecome op P s t) :
    OnlyChip n s t ∧ ∃ c', t.chips[n]? = some c' ∧ P c c' := by
  obtain ⟨hcount, hchips⟩ := hP
  refine ⟨⟨hcount, fun j d d' hj hd hd' => (hchips j d d' hd hd').2 ?_⟩, ?_⟩
  · rw [Chip.reachedBy_own hown]
    exact h.alone j d hj hd
  · have hn : n < t.chips.length := hcount ▸ (List.getElem?_eq_some_iff.mp h.there).1
    have hc' := List.getElem?_eq_getElem hn
    exact ⟨_, hc', (hchips n c _ h.there hc').1 ((Chip.reachedBy_own hown c _).trans h.reached)⟩

/-- Settles O38: the write of O6 at the one chip reached. -/
theorem writeregisterAtEveryAddress : Obligations.WriteregisterAtEveryAddress := by
  intro address data s n c hr hs hsole
  obtain ⟨hwrite, -⟩ := memWriteIsOneTransaction address data s hs
  obtain ⟨honly, c', hc', hwritten⟩ := chipsBecome_of_sole hsole (.inl rfl) hwrite.chips
  refine ⟨(s.memWrite address data).complete none, c', State.whenBegun_of_ready hr _, ⟨honly.count, honly.others⟩, hc',
    fun a => ?_⟩
  rw [read_of_written hwritten, storeAddress_eq]
  by_cases hgpio : address.toNat = 0x09
  · simp [hgpio, eq_comm]
  · by_cases hmap : address.toNat ≤ 0x0A
    · simp [hgpio, hmap, eq_comm]
    · simp [hgpio, hmap]

/-- Settles O39: the read of O7 at the one chip reached. -/
theorem readregisterAtEveryAddress : Obligations.ReadregisterAtEveryAddress := by
  intro address b s n c hr hsole
  refine ⟨(s.memRead address).2.complete (some (s.memRead address).1), _, State.whenBegun_of_ready hr _,
    CallerBecomes.of_eq (State.complete_callerBecomes _ _) (State.transact_callers _ s) (State.transact_active _ s), ?_⟩
  rw [State.memRead_fst, ownRead_of_sole hsole, Chip.readByte_eq]
  by_cases hgpio : address.toNat = 0x09
  · simp [hgpio]
  · by_cases hmap : address.toNat ≤ 0x0A
    · simp [hgpio, hmap]
    · simp [hgpio, hmap]

/-! ### Chips that are not reached -/

theorem State.begunState_chips (s : State) :
    s.begunState.chips =
      if s.engine.haen then s.chips.map (Chip.receive s.engine.csPin [s.engine.opcode, regIOCON, haenMask])
      else s.chips := by
  cases h : s.engine.haen
  · simp [State.begunState_of_not_haen h]
  · simp [State.begunState_of_haen h]

/-- What an operation can do to the chips: nothing, or one frame at every chip that starts with an opcode byte of the
engine's own. -/
theorem exec_chips_of_operation {i : Instr} {s t : State} (h : exec i s = .next t) (hi : isOperation i = true) :
    t.chips = s.chips ∨
      ∃ b0 rest, OwnOpcode s b0 ∧ t.chips = s.chips.map (Chip.receive s.engine.csPin (b0 :: rest)) := by
  obtain ⟨-, -, rfl⟩ | ⟨-, -, r, rfl⟩ | ⟨-, b0, rest, r, hown, rfl⟩ | ⟨-, b0, rest, p, -, -, hown, -, rfl⟩ :=
    exec_next h
  · rw [State.complete_chips, State.begunState_chips]
    cases s.engine.haen
    · exact .inl rfl
    · exact .inr ⟨_, _, .inl rfl, rfl⟩
  · exact .inl rfl
  · exact .inr ⟨b0, rest, (hown hi).2, State.transact_chips _ s⟩
  · exact .inr ⟨b0, rest, hown, State.transact_chips _ s⟩

/-- Settles O10: the engine's read and write opcodes reach the same chips. -/
theorem unreachedChipsUntouched : Obligations.UnreachedChipsUntouched := by
  intro i s t k c hi h hc hunreached
  obtain hsame | ⟨b0, rest, hown, hframe⟩ := exec_chips_of_operation h hi
  · exact ⟨by rw [hsame], c, hsame ▸ hc, rfl, rfl, rfl, rfl, fun _ => rfl⟩
  · refine ⟨by rw [hframe, List.length_map], _, by rw [hframe, List.getElem?_map, hc]; rfl, ?_⟩
    exact Chip.receive_untouched ((Chip.reachedBy_own hown c _).trans hunreached) rest

end Sys2Proof.Machine
end

section
/-! The engine's side of an instruction does not rest on the far side of the transport (20_memory.md R56, R57): run with
other chips and other free values, it differs at most in a byte received. -/
namespace Sys2Proof.Machine
open Sys2Proof.Safety

/-- The same engine and callers with another far side: other chips, and other free values. -/
def State.withFarSide (chips : List Chip) (draws : Nat) (s : State) : State :=
  { s with chips := chips, draws := draws }

/-- The end of one turn, at the active caller. -/
def State.updateActive (f : Caller → Caller) (s : State) : State :=
  { s with callers := s.callers.modify s.active f }

theorem State.complete_eq_updateActive (r : Option Byte) (s : State) :
    s.complete r = s.updateActive (completedWith r) := rfl

theorem State.goOn_eq_updateActive (op : Instr) (p : Phase) (s : State) :
    s.goOn op p = s.updateActive (goingOn op p) := rfl

/-! ### Two runs of one instruction -/

/-- `t` and `u` are what one turn of the active caller made of `s` and of `w`, which have the same engine's side: they
agree on it, and the caller's new record differs at most by a byte received. -/
structure SameEngineSide (s w t u : State) : Prop where
  trace : u.trace = t.trace
  engine : u.engine = t.engine
  bus : u.bus = t.bus
  setting : SameSetting t u
  callers : ∃ f g, t.callers = s.callers.modify s.active f ∧ u.callers = s.callers.modify s.active g ∧
    (∀ c, callerShape (g c) = callerShape (f c)) ∧ (t.trace = s.trace → g = f) ∧
    ((∀ op addr, received w op addr = received s op addr) → g = f)

/-- Where the two outcomes differ on the far side only, no byte received shows. -/
theorem SameEngineSide.of_withFarSide {s w t u : State} {f : Caller → Caller}
    (hf : t.callers = s.callers.modify s.active f) (hu : u = t.withFarSide u.chips u.draws) :
    SameEngineSide s w t u := by
  rw [hu]
  exact ⟨rfl, rfl, rfl, ⟨rfl, rfl, rfl⟩, f, f, hf, hf, fun _ => rfl, fun _ => rfl, fun _ => rfl⟩

/-- The meaning answers alike in `s` and in `s` with any other far side. -/
def FarSideBlind (s : State) (m : State → Host.Outcome State Fault Refusal) : Prop :=
  ∀ (chips : List Chip) (draws : Nat) (t : State), m s = .next t →
    ∃ u, m (s.withFarSide chips draws) = .next u ∧ SameEngineSide s (s.withFarSide chips draws) t u

theorem FarSideBlind.congr {s : State} {m m' : State → Host.Outcome State Fault Refusal} (hm : FarSideBlind s m)
    (h : ∀ chips draws, m' (s.withFarSide chips draws) = m (s.withFarSide chips draws)) : FarSideBlind s m' := by
  intro chips draws t ht
  rw [h chips draws]
  exact hm chips draws t ((h s.chips s.draws).symm.trans ht)

/-- Whether an operation is refused rests on the parameters and on `begun` only. -/
theorem FarSideBlind.whenBegun {s : State} {m : State → Host.Outcome State Fault Refusal} (hm : FarSideBlind s m) :
    FarSideBlind s fun s => s.whenBegun (m s) := by
  intro chips draws t ht
  obtain ⟨hr, ht⟩ := State.whenBegun_next ht
  obtain ⟨u, hu, hsame⟩ := hm chips draws t ht
  exact ⟨u, (State.whenBegun_of_ready (s := s.withFarSide chips draws) ⟨hr.params, hr.begun⟩ _).trans hu, hsame⟩

/-! ### The shared shapes -/

/-- No transaction: the caller's record is the same. -/
theorem farSideBlind_ignored (r : Option Byte) (s : State) : FarSideBlind s (State.ignored r) := by
  refine FarSideBlind.whenBegun (m := State.finish r) fun chips draws t ht => ⟨_, rfl, ?_⟩
  obtain rfl := Host.Outcome.next.inj ht
  exact SameEngineSide.of_withFarSide rfl rfl

/-- A transaction whose received bytes are discarded. -/
theorem farSideBlind_send (bytes : List Byte) (f : Caller → Caller) (s : State) :
    FarSideBlind s fun s => .next ((s.transact bytes).2.updateActive f) := by
  intro chips draws t ht
  obtain rfl := Host.Outcome.next.inj ht
  refine ⟨_, rfl, ?_⟩
  simp only [State.transact_snd]
  exact SameEngineSide.of_withFarSide rfl rfl

/-- A read transaction whose last byte goes into the caller's record, at a place its shape does not show. -/
theorem farSideBlind_receive {b0 : Byte} (hr : b0.getLsbD 0 = true) (addr dummy : Byte) {f : Byte → Caller → Caller}
    (hf : ∀ x y c, callerShape (f x c) = callerShape (f y c)) (s : State) :
    FarSideBlind s fun s =>
      .next ((s.transact [b0, addr, dummy]).2.updateActive (f (s.transact [b0, addr, dummy]).1)) := by
  intro chips draws t ht
  obtain rfl := Host.Outcome.next.inj ht
  refine ⟨_, rfl, ?_⟩
  simp only [State.transact_snd, State.transact_read_fst _ _ _ _ hr]
  refine ⟨rfl, rfl, rfl, ⟨rfl, rfl, rfl⟩, _, _, rfl, rfl, hf _ _, fun hsilent => ?_, fun heq => by rw [heq]⟩
  have hevents : frameEvents s.engine [b0, addr, dummy] = [] := List.append_right_eq_self.mp hsilent
  exact nomatch hevents

theorem farSideBlind_writeOnly (addr v : Byte) (s : State) : FarSideBlind s (State.writeOnly addr v) :=
  (farSideBlind_send [s.engine.opcode, addr, v] (completedWith none) s).whenBegun

theorem farSideBlind_readOnly (addr : Byte) (view : Byte → Byte) (s : State) :
    FarSideBlind s (State.readOnly addr view) :=
  (farSideBlind_receive (readOpcode_bit0 s.engine.opcode) addr s.params.dummyByte
    (f := fun b => completedWith (some (view b))) (fun _ _ _ => rfl) s).whenBegun

theorem farSideBlind_pairRead (op : Instr) (addr : Byte) {next : Byte → Phase}
    (hnext : ∀ x y, phaseIndex (next x) = phaseIndex (next y)) (s : State) :
    FarSideBlind s (State.pairRead op addr next) :=
  (farSideBlind_receive (readOpcode_bit0 s.engine.opcode) addr s.params.dummyByte
    (f := fun b => goingOn op (next b)) (fun x y c => by simp [callerShape, goingOn, hnext x y]) s).whenBegun

/-! ### The instructions -/

theorem farSideBlind_begin (a b : Byte) (s : State) : FarSideBlind s (exec (.begin a b)) := by
  intro chips draws t ht
  obtain ⟨hp, ht⟩ := State.whenConfigured_next (k := State.finish none s.begunState) ht
  obtain rfl := Host.Outcome.next.inj ht
  refine ⟨(s.withFarSide chips draws).begunState.complete none, if_pos hp, ?_⟩
  cases hh : s.engine.haen with
  | false =>
    rw [State.begunState_of_not_haen hh, State.begunState_of_not_haen (s := s.withFarSide chips draws) hh]
    exact SameEngineSide.of_withFarSide rfl rfl
  | true =>
    rw [State.begunState_of_haen hh, State.begunState_of_haen (s := s.withFarSide chips draws) hh,
      State.transact_snd, State.transact_snd]
    exact SameEngineSide.of_withFarSide rfl rfl

theorem farSideBlind_reset (a b : Byte) (s : State) : FarSideBlind s (exec (.reset a b)) :=
  (farSideBlind_send (s.engine.opcode :: 0x00 :: s.resetData) (completedWith none) s).whenBegun

theorem farSideBlind_readpin (pin b : Byte) (s : State) : FarSideBlind s (exec (.readpin pin b)) := by
  cases hp : pinOk pin with
  | false => exact (farSideBlind_ignored _ s).congr fun _ _ => exec_readpin_bad b _ hp
  | true => exact (farSideBlind_readOnly _ _ s).congr fun _ _ => exec_readpin_ok b _ hp

theorem farSideBlind_writepin (pin state : Byte) (s : State) : FarSideBlind s (exec (.writepin pin state)) := by
  cases hp : pinOk pin with
  | false => exact (farSideBlind_ignored _ s).congr fun _ _ => exec_writepin_bad state hp
  | true =>
    cases hs : s.phase with
    | read0 => exact (farSideBlind_pairRead _ _ (fun _ _ => rfl) s).congr fun _ _ => exec_writepin_read0 state hp hs
    | write0 r => exact (farSideBlind_writeOnly _ _ s).congr fun _ _ => exec_writepin_write0 state hp hs
    | read1 => exact (farSideBlind_pairRead _ _ (fun _ _ => rfl) s).congr fun _ _ => exec_writepin_read1 state hp hs
    | write1 r => exact (farSideBlind_writeOnly _ _ s).congr fun _ _ => exec_writepin_write1 state hp hs

theorem farSideBlind_setpinmode (pin mode : Byte) (s : State) : FarSideBlind s (exec (.setpinmode pin mode)) := by
  cases hp : pinOk pin && modeOk s.params mode with
  | false => exact (farSideBlind_ignored _ s).congr fun _ _ => exec_setpinmode_bad hp
  | true =>
    cases hs : s.phase with
    | read0 => exact (farSideBlind_pairRead _ _ (fun _ _ => rfl) s).congr fun _ _ => exec_setpinmode_read0 hp hs
    | write0 r =>
      exact (farSideBlind_send [s.engine.opcode, regIODIR, putBit r pin (!modeIsOutput s.params mode)]
        (goingOn (.setpinmode pin mode) .read1) s).whenBegun.congr fun chips draws =>
          exec_setpinmode_write0 (s := s.withFarSide chips draws) hp hs
    | read1 => exact (farSideBlind_pairRead _ _ (fun _ _ => rfl) s).congr fun _ _ => exec_setpinmode_read1 hp hs
    | write1 q =>
      exact (farSideBlind_writeOnly regGPPU (putBit q pin (modeIsPullup s.params mode)) s).congr fun chips draws =>
        exec_setpinmode_write1 (s := s.withFarSide chips draws) hp hs

theorem wireOpcode_read_bit0 : ∀ aa : BitVec 2, (wireOpcode aa true).getLsbD 0 = true := by
  decide

theorem farSideBlind_exec (i : Instr) (s : State) : FarSideBlind s (exec i) := by
  cases i with
  | begin a b => exact farSideBlind_begin a b s
  | reset a b => exact farSideBlind_reset a b s
  | readpin pin b => exact farSideBlind_readpin pin b s
  | writepin pin state => exact farSideBlind_writepin pin state s
  | setpinmode pin mode => exact farSideBlind_setpinmode pin mode s
  | setoutputstates byte b => exact farSideBlind_writeOnly _ _ s
  | getoutputstates a b => exact farSideBlind_readOnly _ _ s
  | setpinmodes byte b => exact farSideBlind_writeOnly _ _ s
  | getpinmodes a b => exact farSideBlind_readOnly _ _ s
  | enablepullups byte b => exact farSideBlind_writeOnly _ _ s
  | getenabledpullups a b => exact farSideBlind_readOnly _ _ s
  | writeregister address data => exact farSideBlind_writeOnly _ _ s
  | readregister address b => exact farSideBlind_readOnly _ _ s
  | reservedD a b => exact fun _ _ _ ht => nomatch ht
  | reservedE a b => exact fun _ _ _ ht => nomatch ht
  | reservedF a b => exact fun _ _ _ ht => nomatch ht
  | opcodeByte aa read => exact farSideBlind_send [wireOpcode aa read] (completedWith none) s
  | writeFrame aa address data => exact farSideBlind_send [wireOpcode aa false, address, data] (completedWith none) s
  | readFrame aa address dummy =>
    exact farSideBlind_receive (wireOpcode_read_bit0 aa) address dummy (f := fun b => completedWith (some b))
      (fun _ _ _ => rfl) s
  | resetBurstFrame aa haen ndata =>
    exact farSideBlind_send (wireOpcode aa false :: 0x00 :: resetBytes haen ndata) (completedWith none) s

/-- Settles O11: every instruction is blind to the far side, and two updates of one caller's record leave the others. -/
theorem engineSideIgnoresTheChips : Obligations.EngineSideIgnoresTheChips := by
  intro i s t chips draws h
  obtain ⟨u, hu, hsame⟩ := farSideBlind_exec i s chips draws t h
  obtain ⟨f, g, hf, hg, hshape, hsilent, hreceived⟩ := hsame.callers
  refine ⟨u, hu, hsame.trace, hsame.engine, hsame.bus, hsame.setting, ?_, fun k hk => ?_, ?_, fun ht => ?_,
    fun hr => ?_⟩
  · rw [hf, hg, List.length_modify, List.length_modify]
  · simp [hf, hg, Ne.symm hk]
  · rw [hf, hg, List.getElem?_modify_eq, List.getElem?_modify_eq]
    cases s.callers[s.active]? with
    | none => rfl
    | some c => exact congrArg some (hshape c)
  · rw [hf, hg, hsilent ht]
  · rw [hf, hg, hreceived hr]

end Sys2Proof.Machine
end

section
/-! The encodings (30_encoding.md R60 to R65, R70 to R73): the fields of an opcode byte and of a command word, and decode
and encode as inverses of each other. -/
namespace Sys2Proof.Machine

/-! ### The opcode byte -/

/-- The fields of an opcode byte are what it was built from, and it is no first byte of a command word (R60). -/
theorem wireOpcode_fields : ∀ (aa : BitVec 2) (read : Bool),
    isWireOpcode (wireOpcode aa read) = true ∧ opcodeAddress (wireOpcode aa read) = aa ∧
    (wireOpcode aa read).getLsbD 0 = read ∧ (wireOpcode aa read).extractLsb' 4 4 ≠ 0#4 := by
  decide

/-- A byte with the prefix of R60 is built from its two fields. -/
theorem wireOpcode_of_isWireOpcode {b0 : Byte} (h : isWireOpcode b0 = true) :
    wireOpcode (opcodeAddress b0) (b0.getLsbD 0) = b0 := by
  have hprefix : b0.extractLsb' 3 5 = 0b01000#5 := eq_of_beq h
  have hflag : BitVec.ofBool (b0.getLsbD 0) = b0.extractLsb' 0 1 := by
    apply BitVec.eq_of_getLsbD_eq
    intro i hi
    obtain rfl : i = 0 := by omega
    simp
  have htop : b0.extractLsb' 3 5 ++ b0.extractLsb' 1 2 = b0.extractLsb' 1 7 :=
    BitVec.extractLsb'_append_extractLsb'_eq_extractLsb' rfl
  have hall : b0.extractLsb' 1 7 ++ b0.extractLsb' 0 1 = b0.extractLsb' 0 8 :=
    BitVec.extractLsb'_append_extractLsb'_eq_extractLsb' rfl
  rw [wireOpcode, ← hprefix, hflag, opcodeAddress, htop, hall, BitVec.extractLsb'_eq_self]

theorem wireOpcode_of_isWireOpcode_bit0 {b0 : Byte} {read : Bool} (h : isWireOpcode b0 = true)
    (hread : b0.getLsbD 0 = read) : wireOpcode (opcodeAddress b0) read = b0 :=
  hread ▸ wireOpcode_of_isWireOpcode h

theorem wireOpcode_toNat : ∀ (aa : BitVec 2) (read : Bool),
    (wireOpcode aa read).toNat = (if read then 0x41 else 0x40) + 2 * aa.toNat := by
  decide

/-- The read opcode of a frame is its write opcode with bit 0 set (20_memory.md R39). -/
theorem readOpcode_wireOpcode : ∀ aa : BitVec 2, readOpcode (wireOpcode aa false) = wireOpcode aa true := by
  decide

/-- Settles O4: the opcode of a device address is the opcode byte of its low two bits. -/
theorem opcodeOfDeviceAddress : Obligations.OpcodeOfDeviceAddress := by
  intro d
  have hlow : (d.extractLsb' 0 2).toNat = d.toNat % 4 := by simp
  rw [opcodeOf_eq_wireOpcode, readOpcode_wireOpcode, wireOpcode_toNat, wireOpcode_toNat, hlow]
  exact ⟨rfl, rfl⟩

/-! ### Command words -/

/-- The first byte of a command word: `0000` and the code (R71; log 1). -/
theorem commandByte_fields : ∀ code : BitVec 4,
    (0#4 ++ code : Byte).extractLsb' 4 4 = 0#4 ∧ (0#4 ++ code : Byte).extractLsb' 0 4 = code := by
  decide

theorem commandByte_of_prefix {b0 : Byte} (h : b0.extractLsb' 4 4 = 0#4) : (0#4 ++ b0.extractLsb' 0 4 : Byte) = b0 := by
  have hall : b0.extractLsb' 4 4 ++ b0.extractLsb' 0 4 = b0.extractLsb' 0 8 :=
    BitVec.extractLsb'_append_extractLsb'_eq_extractLsb' rfl
  rw [← h, hall, BitVec.extractLsb'_eq_self]

theorem decode_encodeCommand (code : BitVec 4) (a b : Byte) :
    decode (encodeCommand code a b) = .ok (decodeCommand code a b) := by
  obtain ⟨hprefix, hcode⟩ := commandByte_fields code
  simp only [decode, encodeCommand, decodeThree, hprefix, if_true, hcode]

/-- Every code of the table names one instruction, which encodes back to the code and both fields (R70, R73). -/
theorem encode_decodeCommand (code : BitVec 4) (a b : Byte) :
    (decodeCommand code a b).wellFormed = true ∧ encode (decodeCommand code a b) = encodeCommand code a b := by
  obtain ⟨n, hn, rfl⟩ : ∃ n < 16, code = BitVec.ofNat 4 n := 
    ⟨code.toNat, code.isLt, by simp⟩
  interval_cases n <;> exact ⟨rfl, rfl⟩

/-! ### Frames -/

theorem decode_opcodeByte (aa : BitVec 2) (read : Bool) : decode [wireOpcode aa read] = .ok (.opcodeByte aa read) := by
  obtain ⟨hwire, haddress, hflag, -⟩ := wireOpcode_fields aa read
  simp only [decode, decodeOne, hwire, if_true, haddress, hflag]

theorem decode_frame (aa : BitVec 2) (read : Bool) (b1 b2 : Byte) :
    decode [wireOpcode aa read, b1, b2] = .ok (if read then .readFrame aa b1 b2 else .writeFrame aa b1 b2) := by
  obtain ⟨hwire, haddress, hflag, hcommand⟩ := wireOpcode_fields aa read
  simp only [decode, decodeThree, hcommand, if_false, hwire, if_true, haddress, hflag]
  cases read
  · rfl
  · rfl

theorem resetBytes_length (haen : Bool) (n : Nat) : (resetBytes haen n).length = n := by
  simp [resetBytes]

theorem decode_burst {b0 b1 : Byte} {data : List Byte} (h : 2 ≤ data.length) :
    decode (b0 :: b1 :: data) = decodeBurst b0 b1 data := by
  match data, h with
  | _ :: _ :: _, _ => rfl

/-- The data byte for IOCON tells which of the two bursts of R88 it is. -/
theorem decode_resetBurstFrame (aa : BitVec 2) (haen : Bool) {ndata : Nat} (h : ndata = 10 ∨ ndata = 11) :
    decode (wireOpcode aa false :: 0x00 :: resetBytes haen ndata) = .ok (.resetBurstFrame aa haen ndata) := by
  obtain ⟨hwire, haddress, hflag, -⟩ := wireOpcode_fields aa false
  have hhaen : ((resetBytes haen ndata)[5]? == some 0x08) = haen := by
    rw [resetBytes_iocon haen (by omega)]
    cases haen <;> rfl
  rw [decode_burst (by rw [resetBytes_length]; omega)]
  simp only [decodeBurst, hwire, haddress, hflag, hhaen, resetBytes_length, h, Bool.not_false, Bool.and_self, if_true,
    and_self]

/-- Settles O1, row by row: command words by `decode_encodeCommand`, frames by their own lemmas. -/
theorem decodeOfEncode : Obligations.DecodeOfEncode := by
  intro i hwf
  cases i with
  | begin a b => exact decode_encodeCommand 0x0 a b
  | reset a b => exact decode_encodeCommand 0x1 a b
  | readpin pin b => exact decode_encodeCommand 0x2 pin b
  | writepin pin state => exact decode_encodeCommand 0x3 pin state
  | setpinmode pin mode => exact decode_encodeCommand 0x4 pin mode
  | setoutputstates byte b => exact decode_encodeCommand 0x5 byte b
  | getoutputstates a b => exact decode_encodeCommand 0x6 a b
  | setpinmodes byte b => exact decode_encodeCommand 0x7 byte b
  | getpinmodes a b => exact decode_encodeCommand 0x8 a b
  | enablepullups byte b => exact decode_encodeCommand 0x9 byte b
  | getenabledpullups a b => exact decode_encodeCommand 0xA a b
  | writeregister address data => exact decode_encodeCommand 0xB address data
  | readregister address b => exact decode_encodeCommand 0xC address b
  | reservedD a b => exact decode_encodeCommand 0xD a b
  | reservedE a b => exact decode_encodeCommand 0xE a b
  | reservedF a b => exact decode_encodeCommand 0xF a b
  | opcodeByte aa read => exact decode_opcodeByte aa read
  | writeFrame aa address data => exact decode_frame aa false address data
  | readFrame aa address dummy => exact decode_frame aa true address dummy
  | resetBurstFrame aa haen ndata =>
    exact decode_resetBurstFrame aa haen (by simpa [Instr.wellFormed] using hwf)

/-! ### What decodes -/

/-- The instruction is one the encodings express, and `bytes` are its encoding. -/
def Encodes (bytes : List Byte) (i : Instr) : Prop := i.wellFormed = true ∧ encode i = bytes

theorem encodes_of_decodeOne {b0 : Byte} {i : Instr} (h : decodeOne b0 = .ok i) : Encodes [b0] i := by
  simp only [decodeOne] at h
  split at h
  · next hwire =>
    obtain rfl := Except.ok.inj h
    exact ⟨rfl, congrArg (fun b => [b]) (wireOpcode_of_isWireOpcode hwire)⟩
  · cases h

theorem encodes_of_decodeThree {b0 b1 b2 : Byte} {i : Instr} (h : decodeThree b0 b1 b2 = .ok i) :
    Encodes [b0, b1, b2] i := by
  simp only [decodeThree] at h
  split at h
  · next hcommand =>
    obtain rfl := Except.ok.inj h
    obtain ⟨hwf, hencode⟩ := encode_decodeCommand (b0.extractLsb' 0 4) b1 b2
    exact ⟨hwf, hencode.trans (congrArg (fun b => [b, b1, b2]) (commandByte_of_prefix hcommand))⟩
  · split at h
    · next hwire =>
      split at h
      · next hread =>
        obtain rfl := Except.ok.inj h
        exact ⟨rfl, congrArg (fun b => [b, b1, b2]) (wireOpcode_of_isWireOpcode_bit0 hwire hread)⟩
      · next hwrite =>
        obtain rfl := Except.ok.inj h
        exact ⟨rfl, congrArg (fun b => [b, b1, b2])
          (wireOpcode_of_isWireOpcode_bit0 hwire (Bool.eq_false_iff.mpr hwrite))⟩
    · cases h

theorem encodes_of_decodeBurst {b0 address : Byte} {data : List Byte} {i : Instr}
    (h : decodeBurst b0 address data = .ok i) : Encodes (b0 :: address :: data) i := by
  simp only [decodeBurst] at h
  split at h
  · next hprefix =>
    obtain ⟨hwire, hwrite⟩ : isWireOpcode b0 = true ∧ b0.getLsbD 0 = false := by simpa using hprefix
    split at h
    · next hburst =>
      obtain ⟨rfl, hlength, hdata⟩ := hburst
      obtain rfl := Except.ok.inj h
      refine ⟨by simpa [Instr.wellFormed] using hlength, ?_⟩
      rw [encode, wireOpcode_of_isWireOpcode_bit0 hwire hwrite, ← hdata]
    · cases h
  · cases h

/-- Settles O2, by the number of bytes: one, three, or a burst. -/
theorem encodeOfDecode : Obligations.EncodeOfDecode := by
  intro bytes i h
  simp only [decode] at h
  split at h
  · exact encodes_of_decodeOne h
  · exact encodes_of_decodeThree h
  · split at h
    · cases h
    · exact encodes_of_decodeBurst h
  · cases h

/-- Settles O3: each word's bytes are decoded by evaluation. -/
theorem specWordsDecode : Obligations.SpecWordsDecode := by
  refine ⟨rfl, rfl, rfl, rfl, rfl, rfl, rfl, rfl, rfl, rfl, rfl, rfl, rfl, rfl, rfl, rfl, rfl, rfl, rfl, rfl, rfl, rfl,
    rfl⟩

/-! ### What an instruction ignores, and what is no instruction -/

/-- Settles O40: the meaning of each of the ten operations does not name the field (R72). -/
theorem unlistedFieldsAreIgnored : Obligations.UnlistedFieldsAreIgnored :=
  fun _ _ _ _ _ => ⟨rfl, rfl, rfl, rfl, rfl, rfl, rfl, rfl, rfl, rfl⟩

/-- Settles O47 (R73). -/
theorem reservedCodesRefused : Obligations.ReservedCodesRefused := fun _ _ _ => ⟨rfl, rfl, rfl⟩

end Sys2Proof.Machine
end

section
/-! The wire rows as transactions (log 2): any frame that completes, the frame of one byte, and the burst of RESET at a
chip (40_lifecycle.md R87, R88). -/
namespace Sys2Proof.Machine
open Sys2Proof.Safety

/-! ### A frame that completes -/

/-- One transaction and the end of the active caller's operation: what it does, given what its frame does at a chip. -/
theorem State.transact_complete_oneFrame {P : Chip → Chip → Prop} {b0 : Byte} {rest : List Byte} {s : State}
    (r : Option Byte)
    (hP : ∀ c ∈ s.chips, c.reachedBy s.engine.csPin b0 = true → P c (c.receive s.engine.csPin (b0 :: rest))) :
    OneFrame (b0 :: rest) P s ((s.transact (b0 :: rest)).2.complete r) ∧
      CallerBecomes (completedWith r) s ((s.transact (b0 :: rest)).2.complete r) where
  left := {
    setting := ⟨by simp, by simp, by simp⟩
    engine := by simp
    trace := by simp
    chips := State.transact_chipsBecome b0 rest s hP
    csOutput := by simp
    asserted := by simp
    txnOpen := by simp }
  right := CallerBecomes.of_eq (State.complete_callerBecomes r _) (State.transact_callers _ s)
    (State.transact_active _ s)

/-- The opcode byte of a frame in the form of R60: the flag in bit 0, the device address in bits 2 and 1. -/
theorem wireOpcode_eq : ∀ (aa : BitVec 2) (read : Bool),
    wireOpcode aa read = (if read then 0x41 else 0x40) ||| (aa.zeroExtend 8 <<< 1) := by
  decide

/-- Settles O42: what the frame does at a chip it reaches is `Chip.receive_written` and `Chip.receive_answered`. -/
theorem wireFramesAreTransactions : Obligations.WireFramesAreTransactions := by
  intro aa address v s
  have hwrite : wireOpcode aa false = 0x40 ||| (aa.zeroExtend 8 <<< 1) := wireOpcode_eq aa false
  have hread : wireOpcode aa true = 0x41 ||| (aa.zeroExtend 8 <<< 1) := wireOpcode_eq aa true
  obtain ⟨-, -, hwriteFlag, -⟩ := wireOpcode_fields aa false
  obtain ⟨-, -, hreadFlag, -⟩ := wireOpcode_fields aa true
  rw [← hwrite, ← hread, ← State.transact_read_fst _ address v s hreadFlag]
  refine ⟨fun hs => ⟨_, rfl, State.transact_complete_oneFrame none fun c hc hreached => ?_⟩,
    _, rfl, State.transact_complete_oneFrame _ fun c _ hreached => ?_⟩
  · exact Chip.receive_written hreached hwriteFlag (regs_wf_of_sound hs hc) address v
  · exact Chip.receive_answered hreached hreadFlag address v

/-! ### The burst of RESET at a chip -/

/-- The burst of ten data bytes is nine, up to GPIO, and one more (R88). -/
theorem resetBytes_ten (haen : Bool) : resetBytes haen 10 = resetBytes haen 9 ++ [0x00] := rfl

theorem resetBytes_eleven (haen : Bool) : resetBytes haen 11 = resetBytes haen 9 ++ [0x00, 0x00] := rfl

theorem resetBytes_getElem? (haen : Bool) {n i : Nat} (h : i < n) :
    (resetBytes haen n)[i]? = some (resetByte haen i) := by
  simp [resetBytes, h]

/-- The data of R88, as the statements write it out. -/
theorem resetBytes_eq_resetList (haen : Bool) {ndata : Nat} (h : ndata = 10 ∨ ndata = 11) :
    resetBytes haen ndata = resetList haen ndata := by
  rcases h with rfl | rfl
  · rfl
  · rfl

theorem Chip.foldl_writeData_wf {c : Chip} (h : c.regs.wf = true) (data : List Byte) :
    (data.foldl Chip.writeData c).regs.wf = true := by
  induction data generalizing c with
  | nil => exact h
  | cons v data ih => exact ih (Chip.writeData_wf c v h)

/-- A data byte at GPIO or at OLAT is stored in OLAT (20_memory.md R54; log 15). -/
theorem Chip.writeData_read_olat {d : Chip} (hptr : d.ptr = 0x09 ∨ d.ptr = 0x0A) (v : Byte) (hwf : d.regs.wf = true)
    (a : Nat) : (d.writeData v).regs.read a = if a = 0x0A then v else d.regs.read a := by
  have hstore : storeAddress d.ptr = some 0x0A := by
    rcases hptr with h | h
    · rw [h]; rfl
    · rw [h]; rfl
  rw [Chip.writeData_read d v a hwf, hstore]
  simp [eq_comm]

/-- With nine bytes taken the chip's pointer is at GPIO; the tenth goes to OLAT. -/
theorem resetDone_of_filled {haen : Bool} {c d : Chip} (hptr : c.ptr = 0x00) (h : Filled (resetBytes haen 9) c d)
    (hwf : d.regs.wf = true) : ResetDone haen 10 c (d.writeData 0x00) := by
  have hend : d.ptr = 0x09 := by
    rw [h.ptr, hptr, resetBytes_length]
    rfl
  have hread := Chip.writeData_read_olat (.inl hend) 0x00 hwf
  have hstored : ∀ a, a < 9 → (d.writeData 0x00).regs.read a = resetByte haen a := fun a ha => by
    have hfilled := h.stored a _ (resetBytes_getElem? haen ha)
    rw [hptr, show (0x00 : Byte).toNat + a = a from Nat.zero_add a] at hfilled
    rw [hread, if_neg (by omega), hfilled]
  have hothers : ∀ a, isStorage a = false → (d.writeData 0x00).regs.read a = c.regs.read a := fun a ha => by
    have hfilled : c.ptr.toNat + (resetBytes haen 9).length = 9 := by
      rw [hptr, resetBytes_length]
      rfl
    obtain ⟨hpast, holat⟩ : 9 ≤ a ∧ a ≠ 0x0A := by
      simp only [isStorage, Bool.and_eq_false_iff, decide_eq_false_iff_not, bne_eq_false_iff_eq] at ha
      omega
    rw [hread, if_neg holat]
    exact h.others a (.inr (hfilled.trans_le hpast))
  refine ⟨h.line, h.hwaddr, h.pins, ?_, hstored 0 (by omega), hstored 5 (by omega), fun a ha => ?_, hothers⟩
  · show nextPointer d.ptr = _
    rw [hend]
    rfl
  · by_cases holat : a = 0x0A
    · rw [hread, if_pos holat]
    · obtain ⟨hlow, hiodir, hiocon⟩ : a < 9 ∧ a ≠ 0 ∧ a ≠ 5 := by
        simp only [List.mem_cons, List.not_mem_nil, or_false] at ha
        omega
      rw [hstored a hlow, resetByte, if_neg hiodir, if_neg hiocon]

/-- The eleventh byte goes to OLAT by its own address. -/
theorem resetDone_writeData {haen : Bool} {c d : Chip} (h : ResetDone haen 10 c d) (hwf : d.regs.wf = true) :
    ResetDone haen 11 c (d.writeData 0x00) := by
  have hread := Chip.writeData_read_olat (.inr h.ptr) 0x00 hwf
  refine ⟨h.line, h.hwaddr, h.pins, ?_, ?_, ?_, fun a ha => ?_, fun a ha => ?_⟩
  · show nextPointer d.ptr = _
    rw [h.ptr]
    rfl
  · exact (hread _).trans h.iodir
  · exact (hread _).trans h.iocon
  · rw [hread, h.zero a ha, ite_self]
  · rw [hread, if_neg (by rintro rfl; cases ha), h.others a ha]

/-- The data of RESET from address 0x00 on: nine bytes up to GPIO, then one or two that go to OLAT. -/
theorem Chip.foldl_writeData_resetDone {c : Chip} (hptr : c.ptr = 0x00) (hwf : c.regs.wf = true) (haen : Bool)
    {ndata : Nat} (hn : ndata = 10 ∨ ndata = 11) :
    ResetDone haen ndata c ((resetBytes haen ndata).foldl Chip.writeData c) := by
  have hnine : Filled (resetBytes haen 9) c _ :=
    Chip.foldl_writeData_filled _ c hwf (by rw [hptr, resetBytes_length]; exact Nat.le_refl 9)
  have hnineWf := Chip.foldl_writeData_wf hwf (resetBytes haen 9)
  have hten := resetDone_of_filled hptr hnine hnineWf
  rcases hn with rfl | rfl
  · rw [resetBytes_ten, List.foldl_append, List.foldl_cons, List.foldl_nil]
    exact hten
  · rw [resetBytes_eleven, List.foldl_append, List.foldl_cons, List.foldl_cons, List.foldl_nil]
    exact resetDone_writeData hten (Chip.writeData_wf _ _ hnineWf)

/-- The burst of RESET at a chip it reaches (40_lifecycle.md R87, R88). -/
theorem Chip.receive_resetDone {c : Chip} {line b0 : Byte} (haen : Bool) {ndata : Nat} (hn : ndata = 10 ∨ ndata = 11)
    (h : c.reachedBy line b0 = true) (hw : b0.getLsbD 0 = false) (hwf : c.regs.wf = true) :
    ResetDone haen ndata c (c.receive line (b0 :: 0x00 :: resetBytes haen ndata)) := by
  rw [Chip.receive_burst c line b0 0x00 _ h hw]
  obtain ⟨hline, hhwaddr, hpins, hptr, hiodir, hiocon, hzero, hothers⟩ :=
    Chip.foldl_writeData_resetDone (c := { c with ptr := 0x00 }) rfl hwf haen hn
  exact ⟨hline, hhwaddr, hpins, hptr, hiodir, hiocon, hzero, hothers⟩

/-- A frame of the opcode byte alone leaves every chip as it was (20_memory.md R51). -/
theorem Chip.receive_one_untouched (c : Chip) (line b0 : Byte) : Untouched c (c.receive line [b0]) := by
  rw [Chip.receive_one]
  exact ⟨rfl, rfl, rfl, rfl, fun _ => rfl⟩

/-- Settles O43. -/
theorem opcodeByteAndBurstOnTheWire : Obligations.OpcodeByteAndBurstOnTheWire := by
  intro aa flag ndata s
  have hwrite : wireOpcode aa false = 0x40 ||| (aa.zeroExtend 8 <<< 1) := wireOpcode_eq aa false
  obtain ⟨-, -, hwriteFlag, -⟩ := wireOpcode_fields aa false
  rw [← wireOpcode_eq, ← hwrite]
  refine ⟨⟨_, rfl, State.transact_complete_oneFrame none fun c _ _ => c.receive_one_untouched _ _⟩,
    fun hs hn => ?_⟩
  rw [← resetBytes_eq_resetList flag hn]
  exact ⟨_, rfl, State.transact_complete_oneFrame none fun c hc hreached =>
    Chip.receive_resetDone flag hn hreached hwriteFlag (regs_wf_of_sound hs hc)⟩

end Sys2Proof.Machine
end

section
/-! The closed list of frames (30_encoding.md R69): which events each operation emits. -/
namespace Sys2Proof.Machine
open Sys2Proof.Safety

/-- The event lists of R69, as those that one step of an operation with fixed addresses can emit. -/
def ListedEvents (s : State) (new : List Event) : Prop :=
  new = [] ∨ new = [.pinOutput s.engine.csPin] ∨
    (s.engine.haen = true ∧ new = .pinOutput s.engine.csPin :: writeEvents s.engine 0x05 0x08) ∨
    (∃ a ∈ [0x00, 0x06, 0x0A], ∃ d, new = writeEvents s.engine a d) ∨
    (∃ a ∈ [0x00, 0x06, 0x09, 0x0A], new = readEvents s.engine s.params.dummyByte a) ∨
    new = frameEvents s.engine (s.engine.opcode :: 0x00 :: resetList s.engine.haen s.params.resetNdata)

/-- From `s` to `t` the events emitted are on the list. -/
def EmitsListed (s t : State) : Prop := ∃ new, t.trace = s.trace ++ new ∧ ListedEvents s new

section Shapes
variable {s t : State}

theorem emitsListed_of_ignored {r : Option Byte} (h : s.ignored r = .next t) : EmitsListed s t := by
  obtain ⟨-, rfl⟩ := State.ignored_next h
  exact ⟨[], (List.append_nil _).symm, .inl rfl⟩

theorem emitsListed_of_write {addr : Byte} (v : Byte) (ha : addr ∈ [0x00, 0x06, 0x0A])
    (h : t.trace = s.trace ++ writeEvents s.engine addr v) : EmitsListed s t :=
  ⟨_, h, .inr (.inr (.inr (.inl ⟨addr, ha, v, rfl⟩)))⟩

theorem emitsListed_of_read {addr : Byte} (ha : addr ∈ [0x00, 0x06, 0x09, 0x0A])
    (h : t.trace = s.trace ++ readEvents s.engine s.params.dummyByte addr) : EmitsListed s t :=
  ⟨_, h, .inr (.inr (.inr (.inr (.inl ⟨addr, ha, rfl⟩))))⟩

theorem emitsListed_of_writeOnly {addr v : Byte} (ha : addr ∈ [0x00, 0x06, 0x0A])
    (h : s.writeOnly addr v = .next t) : EmitsListed s t := by
  obtain ⟨-, h⟩ := State.whenBegun_next h
  obtain rfl := Host.Outcome.next.inj h
  exact emitsListed_of_write v ha (State.transact_trace _ s)

theorem emitsListed_of_readOnly {addr : Byte} {view : Byte → Byte} (ha : addr ∈ [0x00, 0x06, 0x09, 0x0A])
    (h : s.readOnly addr view = .next t) : EmitsListed s t := by
  obtain ⟨-, h⟩ := State.whenBegun_next h
  obtain rfl := Host.Outcome.next.inj h
  exact emitsListed_of_read ha (State.transact_trace _ s)

theorem emitsListed_of_pairRead {op : Instr} {addr : Byte} {next : Byte → Phase} (ha : addr ∈ [0x00, 0x06, 0x09, 0x0A])
    (h : s.pairRead op addr next = .next t) : EmitsListed s t := by
  obtain ⟨-, h⟩ := State.whenBegun_next h
  obtain rfl := Host.Outcome.next.inj h
  exact emitsListed_of_read ha (State.transact_trace _ s)

end Shapes

section Operations
variable {s t : State}

theorem begin_emitsListed {a b : Byte} (h : exec (.begin a b) s = .next t) : EmitsListed s t := by
  refine ⟨_, execBegin_trace h, ?_⟩
  cases hh : s.engine.haen
  · exact .inr (.inl rfl)
  · exact .inr (.inr (.inl ⟨hh, rfl⟩))

theorem reset_emitsListed {a b : Byte} (h : exec (.reset a b) s = .next t) : EmitsListed s t := by
  obtain ⟨hp, htrace⟩ := execReset_trace h
  rw [resetBytes_eq_resetList _ (paramsOk_resetNdata hp)] at htrace
  exact ⟨_, htrace, .inr (.inr (.inr (.inr (.inr rfl))))⟩

theorem readpin_emitsListed {pin b : Byte} (h : exec (.readpin pin b) s = .next t) : EmitsListed s t := by
  cases hp : pinOk pin with
  | false => exact emitsListed_of_ignored (exec_readpin_bad b s hp ▸ h)
  | true => exact emitsListed_of_readOnly (by decide) (exec_readpin_ok b s hp ▸ h)

theorem writepin_emitsListed {pin state : Byte} (h : exec (.writepin pin state) s = .next t) : EmitsListed s t := by
  cases hp : pinOk pin with
  | false => exact emitsListed_of_ignored (exec_writepin_bad state hp ▸ h)
  | true =>
    cases hs : s.phase with
    | read0 => exact emitsListed_of_pairRead (by decide) (exec_writepin_read0 state hp hs ▸ h)
    | write0 r => exact emitsListed_of_writeOnly (by decide) (exec_writepin_write0 state hp hs ▸ h)
    | read1 => exact emitsListed_of_pairRead (by decide) (exec_writepin_read1 state hp hs ▸ h)
    | write1 r => exact emitsListed_of_writeOnly (by decide) (exec_writepin_write1 state hp hs ▸ h)

theorem setpinmode_emitsListed {pin mode : Byte} (h : exec (.setpinmode pin mode) s = .next t) :
    EmitsListed s t := by
  cases hp : pinOk pin && modeOk s.params mode with
  | false => exact emitsListed_of_ignored (exec_setpinmode_bad hp ▸ h)
  | true =>
    cases hs : s.phase with
    | read0 => exact emitsListed_of_pairRead (by decide) (exec_setpinmode_read0 hp hs ▸ h)
    | write0 r =>
      rw [exec_setpinmode_write0 hp hs] at h
      obtain ⟨-, h⟩ := State.whenBegun_next h
      obtain rfl := Host.Outcome.next.inj h
      exact emitsListed_of_write _ (addr := regIODIR) (by decide) (State.transact_trace _ s)
    | read1 => exact emitsListed_of_pairRead (by decide) (exec_setpinmode_read1 hp hs ▸ h)
    | write1 q => exact emitsListed_of_writeOnly (by decide) (exec_setpinmode_write1 hp hs ▸ h)

end Operations

/-- Settles O41, operation by operation: each writes and reads at register addresses of its own. -/
theorem closedListOfFrames : Obligations.ClosedListOfFrames := by
  intro i s t hi hnotWrite hnotRead h
  have listed : EmitsListed s t := by
    cases i with
    | begin a b => exact begin_emitsListed h
    | reset a b => exact reset_emitsListed h
    | readpin pin b => exact readpin_emitsListed h
    | writepin pin state => exact writepin_emitsListed h
    | setpinmode pin mode => exact setpinmode_emitsListed h
    | setoutputstates byte b => exact emitsListed_of_writeOnly (addr := regOLAT) (by decide) h
    | getoutputstates a b => exact emitsListed_of_readOnly (addr := regOLAT) (by decide) h
    | setpinmodes byte b => exact emitsListed_of_writeOnly (addr := regIODIR) (by decide) h
    | getpinmodes a b => exact emitsListed_of_readOnly (addr := regIODIR) (by decide) h
    | enablepullups byte b => exact emitsListed_of_writeOnly (addr := regGPPU) (by decide) h
    | getenabledpullups a b => exact emitsListed_of_readOnly (addr := regGPPU) (by decide) h
    | writeregister address data => exact (hnotWrite address data rfl).elim
    | readregister address b => exact (hnotRead address b rfl).elim
    | reservedD a b => cases h
    | reservedE a b => cases h
    | reservedF a b => cases h
    | opcodeByte aa read => cases hi
    | writeFrame aa address data => cases hi
    | readFrame aa address dummy => cases hi
    | resetBurstFrame aa haen ndata => cases hi
  exact listed

end Sys2Proof.Machine
end

section
/-! A word presented at the port of caller 0 (log 5). -/
namespace Sys2Proof.Machine
open Sys2Proof.Safety

theorem decode_of_decodeTableWord {nbits w : Nat} {i : Instr} (h : decodeTableWord nbits w = some i) :
    decode (bytesOfWord nbits w) = .ok i := by
  simp only [decodeTableWord] at h
  split at h
  · next j hj => rw [hj, Option.some.inj h]
  · cases h

/-- Caller 0 has nothing in flight and the bytes first at its port. -/
theorem State.present_caller (bytes : List Byte) (s : State) :
    ∃ c ws, (s.present bytes).callers[0]? = some c ∧ c.flight = none ∧ c.pending = bytes :: ws := by
  cases h : s.callers with
  | nil => exact ⟨{ Caller.idle with pending := [bytes] }, [], by simp [State.present, h], rfl, rfl⟩
  | cons c cs =>
    exact ⟨{ c with flight := none, pending := bytes :: c.pending }, c.pending, by simp [State.present, h], rfl, rfl⟩

/-- Under HARDEN_RMW no other caller is left inside a pair (20_memory.md R48). -/
theorem State.present_holdsPair {s : State} (hharden : s.params.hardenRmw = true) (bytes : List Byte) {j : Nat}
    (hj : j ≠ 0) : (s.present bytes).holdsPair j = false := by
  obtain ⟨j, rfl⟩ := Nat.exists_eq_succ_of_ne_zero hj
  rw [Bool.eq_false_iff]
  intro hold
  obtain ⟨c, hc, hold⟩ := State.holdsPair_iff.mp hold
  cases hs : s.callers with
  | nil => simp [State.present, hs] at hc
  | cons c0 cs =>
    simp only [State.present, hs, hharden, Bool.true_and, List.getElem?_cons_succ, List.getElem?_map] at hc
    obtain ⟨d, -, rfl⟩ := Option.map_eq_some_iff.mp hc
    split at hold
    · exact nomatch hold
    · next hfree => exact hfree hold

/-- Nothing keeps caller 0 from taking the word. -/
theorem State.present_not_blocked (bytes : List Byte) (s : State) (i : Instr) :
    (s.present bytes).blocked 0 i = false := by
  rw [Bool.eq_false_iff]
  intro hblocked
  obtain ⟨hharden, -, j, hj, hold⟩ := State.blocked_iff.mp hblocked
  exact nomatch hold.symm.trans (State.present_holdsPair (s := s) hharden bytes hj)

/-- The turn of a caller with nothing in flight takes the next word at its port (30_encoding.md R71). -/
theorem State.fetch_of_pending {s : State} {k : Nat} {c : Caller} {w : List Byte} {ws : List (List Byte)} {i : Instr}
    (hc : s.callers[k]? = some c) (hflight : c.flight = none) (hpending : c.pending = w :: ws)
    (hdecode : decode w = .ok i) (hfree : s.blocked k i = false) : s.fetch k = .run i (s.accept k i) := by
  simp only [State.fetch, hc, hflight, hpending, hdecode, hfree, Bool.false_eq_true, if_false]

/-- A caller that has just taken a word stands at phase 0. -/
theorem State.accept_phase {s : State} {c : Caller} {i : Instr} (hc : s.callers[s.active]? = some c) :
    (s.accept s.active i).phase = .read0 :=
  State.phase_of_flight (c := { c with pending := c.pending.tail, flight := some { op := i, phase := .read0 } })
    (f := { op := i, phase := .read0 }) (by simp [hc]) rfl

/-- Settles O51: the turn of caller 0 finds the word, need not wait, and takes it. -/
theorem presentedWordRuns : Obligations.PresentedWordRuns := by
  intro s nbits w i hp hw
  obtain ⟨c, ws, hc, hflight, hpending⟩ := s.present_caller (bytesOfWord nbits w)
  have hfetch : State.fetch 0 { s.present (bytesOfWord nbits w) with schedule := s.schedule, active := 0 } = _ :=
    State.fetch_of_pending hc hflight hpending (decode_of_decodeTableWord hw)
      (s.present_not_blocked (bytesOfWord nbits w) i)
  exact ⟨_, step_of_fetch_run hp rfl hfetch, State.accept_phase hc, rfl, rfl, rfl, rfl, rfl, rfl, rfl, rfl⟩

end Sys2Proof.Machine
end

section
/-! Construction, BEGIN and RESET (40_lifecycle.md R85 to R88): what each answers, and what it leaves of the state
and at every chip. -/
namespace Sys2Proof.Machine
open Sys2Proof.Safety

/-! ### Construction -/

theorem step_of_construct {s : State} {ci : ConstructInputs} {rest : List Turn} (hp : paramsOk s.params = true)
    (hs : s.schedule = .construct ci :: rest) : step s = .next (State.construct ci { s with schedule := rest }) := by
  simp only [step, hp, hs, if_true]

/-- Settles O12: of the fields only the opcode is computed, from the device address as O4 says. -/
theorem constructionSetsTheEngine : Obligations.ConstructionSetsTheEngine := by
  intro s ci rest hp hs
  obtain ⟨hopcode, -⟩ := opcodeOfDeviceAddress ci.deviceAddr
  exact ⟨_, step_of_construct hp hs, rfl, rfl, hopcode, rfl, rfl, rfl, rfl, rfl, rfl, rfl, rfl, rfl, rfl, rfl, rfl⟩

/-! ### BEGIN -/

/-- BEGIN needs admitted parameters and no earlier BEGIN (40_lifecycle.md R86, 60_exceptions.md R147). -/
theorem exec_begin {s : State} (hp : paramsOk s.params = true) (a b : Byte) :
    exec (.begin a b) s = .next (s.begunState.complete none) := if_pos hp

@[simp] theorem State.begunState_schedule (s : State) : s.begunState.schedule = s.schedule := by
  cases h : s.engine.haen
  · simp [State.begunState_of_not_haen h]
  · simp [State.begunState_of_haen h]

/-- BEGIN makes the line an output; its write, where there is one, leaves the transaction closed. -/
theorem State.begunState_bus (s : State) :
    s.begunState.bus =
      if s.engine.haen then { csOutput := true, asserted := none, txnOpen := false }
      else { s.bus with csOutput := true } := by
  cases h : s.engine.haen
  · simp [State.begunState_of_not_haen h]
  · simp [State.begunState_of_haen h]

/-- With `haen` BEGIN writes 0x08 to IOCON of every chip that its opcode reaches (R86; log 28). -/
theorem State.begunState_chipsBecome {s : State} (hs : Sound s) (h : s.engine.haen = true) :
    ChipsBecome s.engine.opcode (Written 0x05 0x08) s s.begunState := by
  rw [State.begunState_of_haen h]
  exact State.transact_chipsBecome s.engine.opcode [regIOCON, haenMask] s.pinOutput fun c hc hreached =>
    Chip.receive_written hreached (opcode_bit0_of_sound hs) (regs_wf_of_sound hs hc) 0x05 0x08

/-- Settles O21: the state BEGIN leaves is `begunState`, either case of `haen` field by field. -/
theorem beginRuns : Obligations.BeginRuns := by
  intro a b s hp hs
  refine ⟨s.begunState.complete none, exec_begin hp a b,
    CallerBecomes.of_eq (State.complete_callerBecomes none _) s.begunState_callers s.begunState_active,
    ⟨s.begunState_params, s.begunState_schedule, s.begunState_active⟩, s.begunState_engine, ?_, fun h => ?_,
    fun h => ?_⟩
  · rw [State.complete_bus, State.begunState_bus]
    cases s.engine.haen
    · rfl
    · rfl
  · simp [State.begunState_bus, State.begunState_chips, h]
  · have hchips := State.begunState_chipsBecome hs h
    refine ⟨?_, hchips, ?_, ?_⟩
    · rw [State.complete_trace, State.begunState_trace, h]
      rfl
    · simp [State.begunState_bus, h]
    · simp [State.begunState_bus, h]

theorem isWireOpcode_of_sound {s : State} (hs : Sound s) : isWireOpcode s.engine.opcode = true := by
  obtain ⟨hprefix, -⟩ := Bool.and_eq_true_iff.mp hs.opcode
  exact hprefix

/-- A chip that ignores addresses is reached by every frame of the engine on its line (20_memory.md R45). -/
theorem Chip.reachedBy_of_haen_clear {s : State} (hs : Sound s) {c : Chip} (hline : c.line = s.engine.csPin)
    (hclear : c.haenBit = false) : c.reachedBy s.engine.csPin s.engine.opcode = true := by
  rw [Chip.reachedBy_iff, Chip.selectedBy_iff]
  exact ⟨hline, isWireOpcode_of_sound hs, fun hset => Bool.noConfusion (hclear.symm.trans hset)⟩

/-- A chip whose HAEN bit is set is reached by the engine's frames on its line exactly when its address pins hold the
address in the opcode (20_memory.md R45). -/
theorem Chip.reachedBy_iff_of_haen_set {s : State} (hs : Sound s) {c : Chip} (hline : c.line = s.engine.csPin)
    (hset : c.haenBit = true) :
    c.reachedBy s.engine.csPin s.engine.opcode = true ↔ opcodeAddress s.engine.opcode = c.hwaddr := by
  rw [Chip.reachedBy_iff, Chip.selectedBy_iff]
  exact ⟨fun ⟨_, _, haddress⟩ => haddress hset,
    fun haddress => ⟨hline, isWireOpcode_of_sound hs, fun _ => haddress⟩⟩

/-- The byte 0x08 in IOCON sets HAEN (10_state.md R21). -/
theorem Chip.haenBit_of_written {c c' : Chip} (h : Written 0x05 0x08 c c') : c'.haenBit = true := by
  rw [Chip.haenBit, h.stored 0x05 rfl]
  rfl

/-- Settles O22: with HAEN clear the chip is reached by BEGIN's write, and after it its HAEN bit is set. -/
theorem beginTurnsHardwareAddressingOn : Obligations.BeginTurnsHardwareAddressingOn := by
  intro a b s t k c c' hs hhaen hexec hc hc' hline hclear
  obtain ⟨hp, -⟩ := State.whenConfigured_next hexec
  obtain rfl : s.begunState.complete none = t := Host.Outcome.next.inj ((exec_begin hp a b).symm.trans hexec)
  obtain ⟨-, hchips⟩ := State.begunState_chipsBecome hs hhaen
  have hwritten : Written 0x05 0x08 c c' := (hchips k c c' hc hc').1 (Chip.reachedBy_of_haen_clear hs hline hclear)
  have hset := Chip.haenBit_of_written hwritten
  refine ⟨hset, ?_⟩
  rw [State.complete_engine, State.begunState_engine, ← hwritten.hwaddr]
  exact Chip.reachedBy_iff_of_haen_set hs (hwritten.line.trans hline) hset

/-! ### RESET -/

theorem exec_reset {s : State} (hr : Ready s) (a b : Byte) :
    exec (.reset a b) s =
      .next ((s.transact (s.engine.opcode :: 0x00 ::
        resetBytes s.engine.haen s.params.resetNdata)).2.complete none) :=
  State.whenBegun_of_ready hr _

/-- Settles O23: one frame that completes, and at each chip it reaches the burst of `Chip.receive_resetDone`. -/
theorem resetRestoresTheChips : Obligations.ResetRestoresTheChips := by
  intro a b s hr hs
  have hn := paramsOk_resetNdata hr.params
  obtain ⟨hframe, hcaller⟩ := State.transact_complete_oneFrame none fun c hc hreached =>
    Chip.receive_resetDone s.engine.haen hn hreached (opcode_bit0_of_sound hs) (regs_wf_of_sound hs hc)
  rw [← resetBytes_eq_resetList _ hn]
  exact ⟨_, exec_reset hr a b, hcaller, hframe.setting, hframe.engine, hframe.asserted, hframe.txnOpen,
    hframe.csOutput, hframe.trace, hframe.chips⟩

end Sys2Proof.Machine
end

section
/-! The bits of the engine's arithmetic (41_pin_ops.md R105, 42_bulk_ops.md R121), and the guards as propositions. -/
namespace Sys2Proof.Machine
open Sys2Proof.Safety

/-! ### Guards (41_pin_ops.md R100, R104) -/

theorem pinOk_iff {pin : Byte} : pinOk pin = true ↔ pin.toNat ≤ 7 := decide_eq_true_iff

theorem pinOk_eq_false_iff {pin : Byte} : pinOk pin = false ↔ 7 < pin.toNat := by
  rw [← Bool.not_eq_true, pinOk_iff, Nat.not_le]

theorem modeOk_iff {p : Params} {mode : Byte} :
    modeOk p mode = true ↔ mode ∈ [p.modeInput, p.modeOutput, p.modeInputPullup] := by
  simp [modeOk, or_assoc]

/-- The guard of SETPINMODE fails on its pin or on its mode. -/
theorem setpinmodeGuard_eq_false_iff {p : Params} {pin mode : Byte} :
    (pinOk pin && modeOk p mode) = false ↔
      7 < pin.toNat ∨ mode ∉ [p.modeInput, p.modeOutput, p.modeInputPullup] := by
  rw [Bool.and_eq_false_iff, pinOk_eq_false_iff, ← modeOk_iff, Bool.not_eq_true]

theorem stateOf_eq (b : Byte) : stateOf b = decide (b ≠ 0) := by
  simp [stateOf, bne, beq_eq_decide]

theorem not_modeIsOutput_eq (p : Params) (mode : Byte) :
    (!modeIsOutput p mode) = decide (mode ≠ p.modeOutput) := by
  simp [modeIsOutput, beq_eq_decide]

theorem modeIsPullup_eq (p : Params) (mode : Byte) :
    modeIsPullup p mode = decide (mode = p.modeInputPullup) := beq_eq_decide _ _

/-- The three mode codes are distinct (60_exceptions.md R147). -/
theorem paramsOk_modes {p : Params} (h : paramsOk p = true) :
    p.modeInput ≠ p.modeOutput ∧ p.modeInput ≠ p.modeInputPullup ∧ p.modeOutput ≠ p.modeInputPullup := by
  simp only [paramsOk, Bool.and_eq_true, bne_iff_ne] at h
  obtain ⟨⟨⟨hio, hip⟩, hop⟩, -⟩ := h
  exact ⟨hio, hip, hop⟩

/-! ### Bit by bit (R105) -/

theorem one_getLsbD (j : Nat) : (1 : Byte).getLsbD j = decide (j = 0) := by
  rw [show (1 : Byte) = 1#8 from rfl, BitVec.getLsbD_one, decide_eq_true (by decide), Bool.true_and]

theorem mask_getLsbD (pin : Byte) {j : Nat} (hj : j < 8) : (mask pin).getLsbD j = decide (j = pin.toNat) := by
  rw [mask, BitVec.getLsbD_shiftLeft, one_getLsbD, Bool.eq_iff_iff]
  simp only [Bool.and_eq_true, decide_eq_true_eq, Bool.not_eq_true', decide_eq_false_iff_not]
  omega

theorem setBit_getLsbD (r pin : Byte) {j : Nat} (hj : j < 8) :
    (setBit r pin).getLsbD j = if j = pin.toNat then true else r.getLsbD j := by
  rw [setBit, BitVec.getLsbD_or, mask_getLsbD pin hj]
  by_cases h : j = pin.toNat
  · simp [h]
  · simp [h]

theorem clrBit_getLsbD (r pin : Byte) {j : Nat} (hj : j < 8) :
    (clrBit r pin).getLsbD j = if j = pin.toNat then false else r.getLsbD j := by
  rw [clrBit, BitVec.getLsbD_and, BitVec.getLsbD_not, mask_getLsbD pin hj]
  by_cases h : j = pin.toNat
  · simp [h]
  · simp [h, hj]

/-- `put_bit` sets its own bit and passes the other seven. -/
theorem putBit_getLsbD (r pin : Byte) (s : Bool) {j : Nat} (hj : j < 8) :
    (putBit r pin s).getLsbD j = if j = pin.toNat then s else r.getLsbD j := by
  cases s with
  | false => exact clrBit_getLsbD r pin hj
  | true => exact setBit_getLsbD r pin hj

/-- `get_bit` is its bit as a byte (30_encoding.md R74). -/
theorem getBit_eq (r pin : Byte) : getBit r pin = if r.getLsbD pin.toNat then 1 else 0 := by
  apply BitVec.eq_of_getLsbD_eq
  intro i hi
  rw [getBit, BitVec.getLsbD_and, BitVec.getLsbD_ushiftRight, one_getLsbD]
  rw [apply_ite (BitVec.getLsbD · i), one_getLsbD]
  by_cases hi0 : i = 0
  · simp [hi0]
  · simp [hi0]

/-- Settles O5: the bit laws above, and for the others the Boolean algebra of bytes. -/
theorem bitArithmetic : Obligations.BitArithmetic := by
  intro r pin s _
  refine ⟨fun j hj => putBit_getLsbD r pin s hj, getBit_eq r pin, ?_, ?_, BitVec.not_not, BitVec.not_or, ?_⟩
  · rw [setBit, setBit, BitVec.or_assoc, BitVec.or_self]
  · rw [clrBit, clrBit, BitVec.and_assoc, BitVec.and_self]
  · rw [inv, clrBit, BitVec.not_and, BitVec.not_not]
    rfl

end Sys2Proof.Machine
end

section
/-! What the shared shapes of the operations answer: one transaction or none, and the end of a turn at the active
caller. -/
namespace Sys2Proof.Machine
open Sys2Proof.Safety

/-! ### The end of a turn after a transaction -/

section UpdateActive
variable {addr v : Byte} {s t : State}

theorem oneRead_updateActive (h : OneRead addr s t) (f : Caller → Caller) : OneRead addr s (t.updateActive f) where
  setting := ⟨h.setting.params, h.setting.schedule, h.setting.active⟩
  engine := h.engine
  trace := h.trace
  chips := h.chips
  csOutput := h.csOutput
  asserted := h.asserted
  txnOpen := h.txnOpen

theorem oneWrite_updateActive (h : OneWrite addr v s t) (f : Caller → Caller) :
    OneWrite addr v s (t.updateActive f) where
  setting := ⟨h.setting.params, h.setting.schedule, h.setting.active⟩
  engine := h.engine
  trace := h.trace
  chips := h.chips
  csOutput := h.csOutput
  asserted := h.asserted
  txnOpen := h.txnOpen

end UpdateActive

/-! ### The shapes -/

section Shapes
variable {s : State}

/-- One read and the end of the operation, with the byte received seen through `view`. -/
theorem readOnly_oneRead (hr : Ready s) (addr : Byte) (view : Byte → Byte) :
    ∃ t, s.readOnly addr view = .next t ∧ OneRead addr s t ∧
      CallerBecomes (completedWith (some (view (ownRead s addr)))) s t := by
  obtain ⟨hread, hcallers, hbyte, -, -⟩ := memReadIsOneTransaction addr s
  rw [State.readOnly, State.whenBegun_of_ready hr, hbyte]
  exact ⟨_, rfl, oneRead_updateActive hread _,
    CallerBecomes.of_eq (State.complete_callerBecomes _ _) hcallers hread.setting.active⟩

/-- One write and the end of the operation. -/
theorem writeOnly_oneWrite (hr : Ready s) (hs : Sound s) (addr v : Byte) :
    ∃ t, s.writeOnly addr v = .next t ∧ OneWrite addr v s t ∧ CallerBecomes (completedWith none) s t := by
  obtain ⟨hwrite, hcallers⟩ := memWriteIsOneTransaction addr v s hs
  exact ⟨_, State.whenBegun_of_ready hr _, oneWrite_updateActive hwrite _,
    CallerBecomes.of_eq (State.complete_callerBecomes _ _) hcallers hwrite.setting.active⟩

/-- The read of a pair: the operation goes on, holding the byte received. -/
theorem pairRead_oneRead (hr : Ready s) (op : Instr) (addr : Byte) (next : Byte → Phase) :
    ∃ t, s.pairRead op addr next = .next t ∧ OneRead addr s t ∧
      CallerBecomes (goingOn op (next (ownRead s addr))) s t := by
  obtain ⟨hread, hcallers, hbyte, -, -⟩ := memReadIsOneTransaction addr s
  rw [State.pairRead, State.whenBegun_of_ready hr, hbyte]
  exact ⟨_, rfl, oneRead_updateActive hread _,
    CallerBecomes.of_eq (State.goOn_callerBecomes _ _ _) hcallers hread.setting.active⟩

/-- The write of a pair after which the operation goes on. -/
theorem writeGoOn_oneWrite (hr : Ready s) (hs : Sound s) (op : Instr) (addr v : Byte) (p : Phase) :
    ∃ t, s.whenBegun (.next ((s.memWrite addr v).goOn op p)) = .next t ∧ OneWrite addr v s t ∧
      CallerBecomes (goingOn op p) s t := by
  obtain ⟨hwrite, hcallers⟩ := memWriteIsOneTransaction addr v s hs
  exact ⟨_, State.whenBegun_of_ready hr _, oneWrite_updateActive hwrite _,
    CallerBecomes.of_eq (State.goOn_callerBecomes _ _ _) hcallers hwrite.setting.active⟩

/-- An operation whose guard fails (41_pin_ops.md R100, R104; log 28). -/
theorem ignored_nothing (hr : Ready s) (r : Option Byte) :
    ∃ t, s.ignored r = .next t ∧ Nothing s t ∧ CallerBecomes (completedWith r) s t :=
  ⟨_, State.whenBegun_of_ready hr _, ⟨⟨rfl, rfl, rfl⟩, rfl, rfl, rfl, rfl, rfl⟩, State.complete_callerBecomes r s⟩

end Shapes

/-! ### Storage registers -/

theorem isStorage_iff (a : Nat) : isStorage a = true ↔ a ≤ 0x0A ∧ a ≠ 0x09 := by
  simp [isStorage]

/-- A byte written at a storage register's address is stored there (20_memory.md R52). -/
theorem storeAddress_of_isStorage {addr : Byte} (h : isStorage addr.toNat = true) :
    storeAddress addr = some addr.toNat := by
  obtain ⟨hmap, hgpio⟩ := (isStorage_iff _).mp h
  rw [storeAddress_eq, if_neg hgpio, if_pos hmap]

/-- The engine's read of a storage register of the one chip it reaches (20_memory.md R53). -/
theorem ownRead_of_isStorage {s : State} {n : Nat} {c : Chip} (h : SoleChip s n c) {addr : Byte}
    (ha : isStorage addr.toNat = true) : ownRead s addr = c.regs.read addr.toNat := by
  obtain ⟨hmap, hgpio⟩ := (isStorage_iff _).mp ha
  rw [ownRead_of_sole h, Chip.readByte_eq, if_neg hgpio, if_pos hmap, Option.getD_some]

/-- The engine's read of GPIO of the one chip it reaches shows the levels (20_memory.md R53, R54). -/
theorem ownRead_gpio {s : State} {n : Nat} {c : Chip} (h : SoleChip s n c) : ownRead s 0x09 = c.pins := by
  rw [ownRead_of_sole h]
  rfl

end Sys2Proof.Machine
end

section
/-! READPIN, WRITEPIN and SETPINMODE, one turn at a time (41_pin_ops.md R100 to R104): the guards and phases of
`exec_readpin_ok` and the lemmas after it, each answered by one of the shared shapes. -/
namespace Sys2Proof.Machine
open Sys2Proof.Safety

/-- Settles O24. -/
theorem readpinReadsGpio : Obligations.ReadpinReadsGpio := by
  intro pin b s hr
  refine ⟨decode_encodeCommand 0x2 pin b, fun hpin => ?_, fun hpin => ?_⟩
  · rw [exec_readpin_ok b s (pinOk_iff.mpr hpin), ← getBit_eq]
    exact readOnly_oneRead hr regGPIO fun r => getBit r pin
  · rw [exec_readpin_bad b s (pinOk_eq_false_iff.mpr hpin)]
    exact ignored_nothing hr _

/-- Settles O25: the byte received is the levels for GPIO and the latch for OLAT. -/
theorem readpinShowsTheLevel : Obligations.ReadpinShowsTheLevel := by
  intro pin b x y s n c hr hsole hpin
  constructor
  · obtain ⟨-, hread, -⟩ := readpinReadsGpio pin b s hr
    obtain ⟨t, hexec, -, hcaller⟩ := hread hpin
    rw [ownRead_gpio hsole] at hcaller
    exact ⟨t, hexec, hcaller⟩
  · obtain ⟨t, hexec, -, hcaller⟩ := readOnly_oneRead hr regOLAT id
    have hlatch : ownRead s regOLAT = c.regs.read 0x0A := ownRead_of_isStorage hsole rfl
    rw [hlatch] at hcaller
    exact ⟨t, hexec, hcaller⟩

/-- At either phase before a read WRITEPIN makes the read (log 33). -/
theorem exec_writepin_read {pin : Byte} (state : Byte) {s : State} (hp : pinOk pin = true)
    (h : s.phase = .read0 ∨ s.phase = .read1) :
    exec (.writepin pin state) s = s.pairRead (.writepin pin state) regOLAT .write0 := by
  rcases h with h | h
  · exact exec_writepin_read0 state hp h
  · exact exec_writepin_read1 state hp h

/-- At either phase before a write WRITEPIN makes the write (log 33). -/
theorem exec_writepin_write {pin : Byte} (state : Byte) {s : State} (hp : pinOk pin = true) {r : Byte}
    (h : s.phase = .write0 r ∨ s.phase = .write1 r) :
    exec (.writepin pin state) s = s.writeOnly regOLAT (putBit r pin (decide (state ≠ 0))) := by
  rw [← stateOf_eq]
  rcases h with h | h
  · exact exec_writepin_write0 state hp h
  · exact exec_writepin_write1 state hp h

/-- Settles O30. -/
theorem badPinsAndModesAreIgnored : Obligations.BadPinsAndModesAreIgnored := by
  intro pin v s hr
  refine ⟨fun hpin => ?_, fun hbad => ?_⟩
  · rw [exec_writepin_bad v (pinOk_eq_false_iff.mpr hpin)]
    exact ignored_nothing hr none
  · rw [exec_setpinmode_bad (setpinmodeGuard_eq_false_iff.mpr hbad)]
    exact ignored_nothing hr none

/-- Settles O26. -/
theorem writepinReadsThenWrites : Obligations.WritepinReadsThenWrites := by
  intro pin state s hr
  obtain ⟨hignored, -⟩ := badPinsAndModesAreIgnored pin state s hr
  refine ⟨decode_encodeCommand 0x3 pin state, fun hpin hphase => ?_, fun r hpin hphase hs => ?_, hignored⟩
  · rw [exec_writepin_read state (pinOk_iff.mpr hpin) hphase]
    exact pairRead_oneRead hr _ regOLAT .write0
  · rw [exec_writepin_write state (pinOk_iff.mpr hpin) hphase]
    exact writeOnly_oneWrite hr hs regOLAT _

/-- Settles O28, phase by phase. -/
theorem setpinmodeRunsTwoPairs : Obligations.SetpinmodeRunsTwoPairs := by
  intro pin mode s hr hpin hmode
  have hp : (pinOk pin && modeOk s.params mode) = true :=
    Bool.and_eq_true_iff.mpr ⟨pinOk_iff.mpr hpin, modeOk_iff.mpr hmode⟩
  refine ⟨fun hphase => ?_, fun r hphase hs => ?_, fun hphase => ?_, fun q hphase hs => ?_⟩
  · rw [exec_setpinmode_read0 hp hphase]
    exact pairRead_oneRead hr _ regIODIR .write0
  · rw [exec_setpinmode_write0 hp hphase, not_modeIsOutput_eq]
    exact writeGoOn_oneWrite hr hs _ regIODIR _ .read1
  · rw [exec_setpinmode_read1 hp hphase]
    exact pairRead_oneRead hr _ regGPPU .write1
  · rw [exec_setpinmode_write1 hp hphase, modeIsPullup_eq]
    exact writeOnly_oneWrite hr hs regGPPU _

end Sys2Proof.Machine
end

section
/-! WRITEPIN and SETPINMODE run by one caller with nobody in between, where the engine reaches one chip: what every
turn but the last leaves for the next, and the chain of turns. -/
namespace Sys2Proof.Machine
open Sys2Proof.Safety

/-! ### What an instruction keeps -/

/-- An instruction of a ready state leaves it ready: the parameters stay, and `begun` is never cleared. -/
theorem exec_ready {i : Instr} {s t : State} (hr : Ready s) (h : exec i s = .next t) : Ready t where
  params := (congrArg paramsOk (exec_params h)).trans hr.params
  begun := by rw [exec_engine h, hr.begun, Bool.true_or]

/-- An operation makes whole frames, so that it leaves every chip between transactions. -/
theorem exec_sound {i : Instr} {s t : State} (hi : isOperation i = true) (hs : Sound s) (h : exec i s = .next t) :
    Sound t where
  opcode := by rw [exec_engine h]; exact hs.opcode
  chips := by
    obtain hsame | ⟨b0, rest, -, hframe⟩ := exec_chips_of_operation h hi
    · rw [hsame]
      exact hs.chips
    · intro c hc
      rw [hframe] at hc
      obtain ⟨d, hd, rfl⟩ := List.mem_map.mp hc
      exact Chip.receive_inv (hs.chips d hd) _ _

/-! ### The one chip reached stays the one chip reached -/

/-- What device selection looks at is the same: the line, the address pins and IOCON (20_memory.md R45). -/
structure SelectedAlike (c c' : Chip) : Prop where
  line : c'.line = c.line
  hwaddr : c'.hwaddr = c.hwaddr
  iocon : c'.regs.read 0x05 = c.regs.read 0x05

theorem SelectedAlike.reachedBy {c c' : Chip} (h : SelectedAlike c c') (line b0 : Byte) :
    c'.reachedBy line b0 = c.reachedBy line b0 := by
  simp only [Chip.reachedBy, Chip.selectedBy, Chip.haenBit, h.line, h.hwaddr, h.iocon]

theorem selectedAlike_of_untouched {c c' : Chip} (h : Untouched c c') : SelectedAlike c c' :=
  ⟨h.line, h.hwaddr, h.regs 0x05⟩

theorem selectedAlike_of_answered {addr : Byte} {c c' : Chip} (h : Answered addr c c') : SelectedAlike c c' :=
  ⟨h.line, h.hwaddr, h.regs 0x05⟩

theorem selectedAlike_of_written {addr v : Byte} {c c' : Chip} (h : Written addr v c c')
    (haddr : storeAddress addr ≠ some 0x05) : SelectedAlike c c' :=
  ⟨h.line, h.hwaddr, h.others 0x05 haddr⟩

theorem onlyChip_trans {n : Nat} {s t u : State} (hst : OnlyChip n s t) (htu : OnlyChip n t u) : OnlyChip n s u where
  count := htu.count.trans hst.count
  others j d d'' hj hd hd'' := by
    have hlt : j < t.chips.length := htu.count ▸ (List.getElem?_eq_some_iff.mp hd'').1
    have hd' := List.getElem?_eq_getElem hlt
    have hfirst := hst.others j d _ hj hd hd'
    have hsecond := htu.others j _ d'' hj hd' hd''
    exact ⟨hsecond.line.trans hfirst.line, hsecond.hwaddr.trans hfirst.hwaddr, hsecond.pins.trans hfirst.pins,
      hsecond.ptr.trans hfirst.ptr, fun a => (hsecond.regs a).trans (hfirst.regs a)⟩

theorem soleChip_of_chipsBecome {s t : State} {n : Nat} {c : Chip} (h : SoleChip s n c) {op : Byte}
    (hown : OwnOpcode s op) (hengine : t.engine = s.engine) {P : Chip → Chip → Prop} (hchips : ChipsBecome op P s t)
    (hP : ∀ c', P c c' → SelectedAlike c c') : OnlyChip n s t ∧ ∃ c', SoleChip t n c' ∧ P c c' := by
  obtain ⟨honly, c', hc', hbecome⟩ := chipsBecome_of_sole h hown hchips
  refine ⟨honly, c', ⟨hc', ?_, fun j d' hj hd' => ?_⟩, hbecome⟩
  · rw [hengine, (hP c' hbecome).reachedBy]
    exact h.reached
  · have hlt : j < s.chips.length := honly.count ▸ (List.getElem?_eq_some_iff.mp hd').1
    have hd := List.getElem?_eq_getElem hlt
    rw [hengine, (selectedAlike_of_untouched (honly.others j _ d' hj hd hd')).reachedBy]
    exact h.alone j _ hj hd

/-! ### One turn of an operation run alone -/

/-- The active caller `x` stands at phase `p`, and the engine reaches chip `n` alone, whose registers read as `regs`. -/
structure AloneAt (p : Phase) (n : Nat) (regs : Nat → Byte) (s : State) (x : Caller) : Prop where
  stands : StandsAt p s x
  sound : Sound s
  sole : ∃ c, SoleChip s n c ∧ ∀ a, c.regs.read a = regs a

/-- Run alone, the operation completes without a result after at most `k + 1` steps; of the chips only number `n`
changed, whose registers read as `regs`, and the events are `es`. -/
def AloneEnds (k n : Nat) (i : Instr) (s : State) (x : Caller) (es : List Event) (regs : Nat → Byte) : Prop :=
  ∃ t c', runAlone k i s = .next t ∧ OnlyChip n s t ∧ t.chips[n]? = some c' ∧ (∀ a, c'.regs.read a = regs a) ∧
    t.engine = s.engine ∧ t.trace = s.trace ++ es ∧ t.callers[s.active]? = some (completedWith none x)

theorem standsAt_of_goingOn {i : Instr} {s t : State} {x : Caller} {p q : Phase} (h : StandsAt p s x)
    (hexec : exec i s = .next t) (hactive : t.active = s.active) (hcaller : CallerBecomes (goingOn i q) s t) :
    StandsAt q t (goingOn i q x) := by
  have hx : t.callers[t.active]? = some (goingOn i q x) := hactive ▸ hcaller.active x h.caller
  exact ⟨exec_ready h.ready hexec, State.phase_of_flight hx rfl, hx⟩

/-- A data byte at a storage register of a chip, at every address. -/
theorem read_of_written_storage {addr v : Byte} {c c' : Chip} {regs : Nat → Byte} (h : Written addr v c c')
    (ha : isStorage addr.toNat = true) (hregs : ∀ a, c.regs.read a = regs a) (a : Nat) :
    c'.regs.read a = Function.update regs addr.toNat v a := by
  rw [read_of_written h, storeAddress_of_isStorage ha, hregs, Function.update_apply]
  simp only [Option.some.injEq, eq_comm]

section Turn
variable {i : Instr} {k n : Nat} {regs regs' : Nat → Byte} {s : State} {x : Caller} {p : Phase} {addr : Byte}
  {es : List Event}

/-- A turn after which the operation goes on, and the rest of the run. -/
theorem aloneEnds_of_goesOn {t : State} {q : Phase} {fs : List Event} (hexec : exec i s = .next t)
    (honly : OnlyChip n s t) (hengine : t.engine = s.engine) (hactive : t.active = s.active)
    (htrace : t.trace = s.trace ++ es) (hnext : StandsAt q t (goingOn i q x))
    (hrest : AloneEnds k n i t (goingOn i q x) fs regs) : AloneEnds (k + 1) n i s x (es ++ fs) regs := by
  obtain ⟨u, c', hrun, honly', hc', hregs, hengine', htrace', hx⟩ := hrest
  have hstep : runAlone (k + 1) i s = runAlone k i t :=
    runAlone_of_inFlight k hexec (inFlight_of_caller hnext.caller)
  refine ⟨u, c', hstep.trans hrun, onlyChip_trans honly honly', hc', hregs, hengine'.trans hengine, ?_, hactive ▸ hx⟩
  rw [htrace', htrace, List.append_assoc]

/-- A turn that reads a storage register and goes on with the byte it holds. -/
theorem aloneEnds_of_read {next : Byte → Phase} (h : AloneAt p n regs s x) (hi : isOperation i = true)
    (ha : isStorage addr.toNat = true)
    (hturn : ∃ t, exec i s = .next t ∧ OneRead addr s t ∧ CallerBecomes (goingOn i (next (ownRead s addr))) s t)
    (hrest : ∀ t y, t.params = s.params → t.engine = s.engine → AloneAt (next (regs addr.toNat)) n regs t y →
      AloneEnds k n i t y es regs') :
    AloneEnds (k + 1) n i s x (readEvents s.engine s.params.dummyByte addr ++ es) regs' := by
  obtain ⟨t, hexec, hread, hcaller⟩ := hturn
  obtain ⟨c, hsole, hregs⟩ := h.sole
  rw [ownRead_of_isStorage hsole ha, hregs] at hcaller
  obtain ⟨honly, c', hsole', hanswered⟩ := soleChip_of_chipsBecome hsole (.inr rfl) hread.engine hread.chips
    fun _ => selectedAlike_of_answered
  have hstands := standsAt_of_goingOn h.stands hexec hread.setting.active hcaller
  exact aloneEnds_of_goesOn hexec honly hread.engine hread.setting.active hread.trace hstands
    (hrest t _ hread.setting.params hread.engine ⟨hstands, exec_sound hi h.sound hexec, c', hsole',
      fun a => (hanswered.regs a).trans (hregs a)⟩)

/-- A turn that writes a storage register other than IOCON and goes on. -/
theorem aloneEnds_of_write {v : Byte} {q : Phase} (h : AloneAt p n regs s x) (hi : isOperation i = true)
    (ha : isStorage addr.toNat = true) (hiocon : addr.toNat ≠ 0x05)
    (hturn : ∃ t, exec i s = .next t ∧ OneWrite addr v s t ∧ CallerBecomes (goingOn i q) s t)
    (hrest : ∀ t y, t.params = s.params → t.engine = s.engine →
      AloneAt q n (Function.update regs addr.toNat v) t y → AloneEnds k n i t y es regs') :
    AloneEnds (k + 1) n i s x (writeEvents s.engine addr v ++ es) regs' := by
  obtain ⟨t, hexec, hwrite, hcaller⟩ := hturn
  obtain ⟨c, hsole, hregs⟩ := h.sole
  have hstore : storeAddress addr ≠ some 0x05 := by
    rw [storeAddress_of_isStorage ha]
    exact fun e => hiocon (Option.some.inj e)
  obtain ⟨honly, c', hsole', hwritten⟩ := soleChip_of_chipsBecome hsole (.inl rfl) hwrite.engine hwrite.chips
    fun _ hw => selectedAlike_of_written hw hstore
  have hstands := standsAt_of_goingOn h.stands hexec hwrite.setting.active hcaller
  exact aloneEnds_of_goesOn hexec honly hwrite.engine hwrite.setting.active hwrite.trace hstands
    (hrest t _ hwrite.setting.params hwrite.engine ⟨hstands, exec_sound hi h.sound hexec, c', hsole',
      read_of_written_storage hwritten ha hregs⟩)

/-- A turn that writes a storage register and completes. -/
theorem aloneEnds_of_lastWrite {v : Byte} (h : AloneAt p n regs s x) (ha : isStorage addr.toNat = true)
    (hturn : ∃ t, exec i s = .next t ∧ OneWrite addr v s t ∧ CallerBecomes (completedWith none) s t) :
    AloneEnds k n i s x (writeEvents s.engine addr v) (Function.update regs addr.toNat v) := by
  obtain ⟨t, hexec, hwrite, hcaller⟩ := hturn
  obtain ⟨c, hsole, hregs⟩ := h.sole
  obtain ⟨honly, c', hc', hwritten⟩ := chipsBecome_of_sole hsole (.inl rfl) hwrite.chips
  have hx := hcaller.active x h.stands.caller
  have hdone : inFlight t = false := inFlight_of_caller (c := completedWith none x) (hwrite.setting.active ▸ hx)
  exact ⟨t, c', runAlone_of_complete k hexec hdone, honly, hc', read_of_written_storage hwritten ha hregs,
    hwrite.engine, hwrite.trace, hx⟩

end Turn

/-! ### WRITEPIN (95_test_vectors.md T1) -/

theorem writepin_alone {pin : Byte} (state : Byte) {s : State} {n : Nat} {regs : Nat → Byte} {x : Caller}
    (hpin : pin.toNat ≤ 7) (h : AloneAt .read0 n regs s x) (k : Nat) :
    let v := putBit (regs 0x0A) pin (decide (state ≠ 0))
    AloneEnds (k + 1) n (.writepin pin state) s x
      (readEvents s.engine s.params.dummyByte 0x0A ++ writeEvents s.engine 0x0A v) (Function.update regs 0x0A v) := by
  obtain ⟨-, hread, -, -⟩ := writepinReadsThenWrites pin state s h.stands.ready
  refine aloneEnds_of_read (next := .write0) h rfl rfl (hread hpin (.inl h.stands.phase)) fun t y _ hengine ht => ?_
  obtain ⟨-, -, hwrite, -⟩ := writepinReadsThenWrites pin state t ht.stands.ready
  rw [← hengine]
  exact aloneEnds_of_lastWrite (addr := 0x0A) ht rfl (hwrite _ hpin (.inl ht.stands.phase) ht.sound)

/-- Settles O27: the run of `writepin_alone` from the registers of the one chip reached. -/
theorem writepinAloneSetsOneLatchBit : Obligations.WritepinAloneSetsOneLatchBit := by
  intro pin state s n c x hr hs hsole hpin hphase hx
  obtain ⟨t, c', hrun, honly, hc', hregs, hengine, htrace, hcaller⟩ :=
    writepin_alone state hpin ⟨⟨hr, hphase, hx⟩, hs, c, hsole, fun _ => rfl⟩ 2
  have hlatch : c'.regs.read 0x0A = putBit (c.regs.read 0x0A) pin (decide (state ≠ 0)) :=
    (hregs 0x0A).trans (Function.update_self _ _ _)
  refine ⟨t, c', hrun, honly, hc', fun j hj => ?_, fun a ha => ?_, hengine, ?_, hcaller⟩
  · rw [hlatch]
    exact putBit_getLsbD _ pin _ hj
  · exact (hregs a).trans (Function.update_of_ne ha _ _)
  · rw [htrace, hlatch, List.append_assoc]

/-! ### SETPINMODE (95_test_vectors.md T2) -/

section Setpinmode
variable {pin mode : Byte} {s : State} {n : Nat} {regs : Nat → Byte} {x : Caller} (hpin : pin.toNat ≤ 7)
  (hmode : mode ∈ [s.params.modeInput, s.params.modeOutput, s.params.modeInputPullup])
include hpin hmode

theorem setpinmode_alone_read1 (h : AloneAt .read1 n regs s x) (k : Nat) :
    let w := putBit (regs 0x06) pin (decide (mode = s.params.modeInputPullup))
    AloneEnds (k + 1) n (.setpinmode pin mode) s x
      (readEvents s.engine s.params.dummyByte 0x06 ++ writeEvents s.engine 0x06 w) (Function.update regs 0x06 w) := by
  obtain ⟨-, -, hread, -⟩ := setpinmodeRunsTwoPairs pin mode s h.stands.ready hpin hmode
  refine aloneEnds_of_read (next := .write1) h rfl rfl (hread h.stands.phase) fun t y hparams hengine ht => ?_
  obtain ⟨-, -, -, hwrite⟩ := setpinmodeRunsTwoPairs pin mode t ht.stands.ready hpin (hparams ▸ hmode)
  rw [← hengine, ← hparams]
  exact aloneEnds_of_lastWrite (addr := 0x06) ht rfl (hwrite _ ht.stands.phase ht.sound)

theorem setpinmode_alone_read0 (h : AloneAt .read0 n regs s x) (k : Nat) :
    let v := putBit (regs 0x00) pin (decide (mode ≠ s.params.modeOutput))
    let w := putBit (regs 0x06) pin (decide (mode = s.params.modeInputPullup))
    AloneEnds (k + 3) n (.setpinmode pin mode) s x
      (readEvents s.engine s.params.dummyByte 0x00 ++ (writeEvents s.engine 0x00 v ++
        (readEvents s.engine s.params.dummyByte 0x06 ++ writeEvents s.engine 0x06 w)))
      (Function.update (Function.update regs 0x00 v) 0x06 w) := by
  obtain ⟨hread, -, -, -⟩ := setpinmodeRunsTwoPairs pin mode s h.stands.ready hpin hmode
  refine aloneEnds_of_read (next := .write0) h rfl rfl (hread h.stands.phase) fun t y hparams hengine ht => ?_
  obtain ⟨-, hwrite, -, -⟩ := setpinmodeRunsTwoPairs pin mode t ht.stands.ready hpin (hparams ▸ hmode)
  rw [← hengine, ← hparams]
  refine aloneEnds_of_write (addr := 0x00) ht rfl rfl (by decide) (hwrite _ ht.stands.phase ht.sound)
    fun u z hparams' hengine' hu => ?_
  have hrun := setpinmode_alone_read1 hpin (hparams' ▸ hparams ▸ hmode) hu k
  rw [hengine', hparams', Function.update_of_ne (show 0x06 ≠ (0x00 : Byte).toNat by decide)] at hrun
  exact hrun

end Setpinmode

/-- The mode of a pin rests on its bits of IODIR and GPPU alone (10_state.md R26). -/
theorem Chip.pinMode_congr {c c' : Chip} {j : Nat}
    (hdir : (c'.regs.read 0x00).getLsbD j = (c.regs.read 0x00).getLsbD j)
    (hpull : (c'.regs.read 0x06).getLsbD j = (c.regs.read 0x06).getLsbD j) : c'.pinMode j = c.pinMode j := by
  simp only [Chip.pinMode, hdir, hpull]

/-- The two bits that SETPINMODE puts give the mode asked for. -/
theorem Chip.pinMode_of_bits {c : Chip} {j : Nat} {p : Params} (hp : paramsOk p = true) {mode : Byte}
    (hdir : (c.regs.read 0x00).getLsbD j = decide (mode ≠ p.modeOutput))
    (hpull : (c.regs.read 0x06).getLsbD j = decide (mode = p.modeInputPullup)) :
    c.pinMode j = if mode = p.modeOutput then .output else if mode = p.modeInputPullup then .inputPullup
      else .input := by
  obtain ⟨-, -, hdistinct⟩ := paramsOk_modes hp
  by_cases hout : mode = p.modeOutput
  · have hnot : mode ≠ p.modeInputPullup := hout ▸ hdistinct
    simp [Chip.pinMode, hdir, hpull, hout, hdistinct]
  · by_cases hup : mode = p.modeInputPullup
    · simp [Chip.pinMode, hdir, hpull, hup, hdistinct.symm]
    · simp [Chip.pinMode, hdir, hpull, hout, hup]

/-- Settles O29: the run of `setpinmode_alone_read0` from the registers of the one chip reached. -/
theorem setpinmodeAloneSetsTheMode : Obligations.SetpinmodeAloneSetsTheMode := by
  intro pin mode s n c x hr hs hsole hpin hmode hphase hx
  obtain ⟨t, c', hrun, honly, hc', hregs, hengine, htrace, hcaller⟩ :=
    setpinmode_alone_read0 hpin hmode ⟨⟨hr, hphase, hx⟩, hs, c, hsole, fun _ => rfl⟩ 0
  have hdir : c'.regs.read 0x00 = putBit (c.regs.read 0x00) pin (decide (mode ≠ s.params.modeOutput)) :=
    (hregs 0x00).trans ((Function.update_of_ne (by decide) _ _).trans (Function.update_self _ _ _))
  have hpull : c'.regs.read 0x06 = putBit (c.regs.read 0x06) pin (decide (mode = s.params.modeInputPullup)) :=
    (hregs 0x06).trans (Function.update_self _ _ _)
  refine ⟨t, c', hrun, honly, hc', Chip.pinMode_of_bits hr.params ?_ ?_, fun j hj hne => Chip.pinMode_congr ?_ ?_,
    fun a hdir hpull => ?_, hengine, ?_, hcaller⟩
  · rw [hdir, putBit_getLsbD _ _ _ (by omega), if_pos rfl]
  · rw [hpull, putBit_getLsbD _ _ _ (by omega), if_pos rfl]
  · rw [hdir, putBit_getLsbD _ _ _ hj, if_neg hne]
  · rw [hpull, putBit_getLsbD _ _ _ hj, if_neg hne]
  · exact (hregs a).trans ((Function.update_of_ne hpull _ _).trans (Function.update_of_ne hdir _ _))
  · rw [htrace, hdir, hpull, List.append_assoc, List.append_assoc]

end Sys2Proof.Machine
end

section
/-! The six whole-byte operations (42_bulk_ops.md R115 to R121): one write or one read of one storage register each,
what that is at the one chip reached, and the round trip through the inverted IODIR. -/
namespace Sys2Proof.Machine
open Sys2Proof.Safety

/-! ### Caller polarity and chip polarity (42_bulk_ops.md R121) -/

theorem inv_eq_xor (b : Byte) : inv b = b ^^^ 0xFF := BitVec.xor_allOnes.symm

/-! ### One transaction of a storage register -/

/-- The engine's own read when its frames reach no chip (20_memory.md R57). -/
theorem ownRead_of_noneReached {s : State} (addr : Byte)
    (h : ∀ c ∈ s.chips, c.reachedBy s.engine.csPin s.engine.opcode = false) : ∃ n, ownRead s addr = Config.draw n :=
  ⟨s.draws + 2, ownRead_of_unreached addr fun c hc => (c.reachedBy_readOpcode _ _).trans (h c hc)⟩

/-- A write of a storage register other than IOCON leaves the one chip reached the one chip reached, and changes that
register of it alone. -/
theorem oneWrite_at_soleChip {addr v : Byte} {s t : State} {n : Nat} {c : Chip} (hwrite : OneWrite addr v s t)
    (hsole : SoleChip s n c) (ha : isStorage addr.toNat = true) (hiocon : addr.toNat ≠ 0x05) :
    OnlyChip n s t ∧ ∃ c', SoleChip t n c' ∧ ∀ a, c'.regs.read a = if a = addr.toNat then v else c.regs.read a := by
  have hstore : storeAddress addr ≠ some 0x05 := by
    rw [storeAddress_of_isStorage ha]
    exact fun e => hiocon (Option.some.inj e)
  obtain ⟨honly, c', hsole', hwritten⟩ := soleChip_of_chipsBecome hsole (.inl rfl) hwrite.engine hwrite.chips
    fun _ hw => selectedAlike_of_written hw hstore
  refine ⟨honly, c', hsole', fun a => ?_⟩
  rw [read_of_written_storage hwritten ha (fun _ => rfl), Function.update_apply]

/-! ### The operations, each one access -/

section Exec
variable (a b byte : Byte) (s : State)

theorem exec_setoutputstates : exec (.setoutputstates byte b) s = s.writeOnly regOLAT byte := rfl

theorem exec_getoutputstates : exec (.getoutputstates a b) s = s.readOnly regOLAT id := rfl

/-- Caller polarity in, chip polarity on the wire. -/
theorem exec_setpinmodes : exec (.setpinmodes byte b) s = s.writeOnly regIODIR (byte ^^^ 0xFF) := by
  rw [← inv_eq_xor]
  rfl

/-- Chip polarity on the wire, caller polarity out. -/
theorem exec_getpinmodes : exec (.getpinmodes a b) s = s.readOnly regIODIR (· ^^^ 0xFF) := by
  rw [← funext inv_eq_xor]
  rfl

theorem exec_enablepullups : exec (.enablepullups byte b) s = s.writeOnly regGPPU byte := rfl

theorem exec_getenabledpullups : exec (.getenabledpullups a b) s = s.readOnly regGPPU id := rfl

end Exec

/-- Settles O31. -/
theorem bulkWritesStoreOneByte : Obligations.BulkWritesStoreOneByte := by
  intro byte b s hr hs
  refine ⟨decode_encodeCommand 0x5 byte b, decode_encodeCommand 0x7 byte b, decode_encodeCommand 0x9 byte b,
    ?_, ?_, ?_⟩
  · rw [exec_setoutputstates]
    exact writeOnly_oneWrite hr hs regOLAT byte
  · rw [exec_setpinmodes]
    exact writeOnly_oneWrite hr hs regIODIR _
  · rw [exec_enablepullups]
    exact writeOnly_oneWrite hr hs regGPPU byte

/-- Settles O32. -/
theorem bulkReadsReturnOneRegister : Obligations.BulkReadsReturnOneRegister := by
  intro a b s hr
  refine ⟨decode_encodeCommand 0x6 a b, decode_encodeCommand 0x8 a b, decode_encodeCommand 0xA a b, ?_, ?_, ?_⟩
  · rw [exec_getoutputstates]
    exact readOnly_oneRead hr regOLAT id
  · rw [exec_getpinmodes]
    exact readOnly_oneRead hr regIODIR (· ^^^ 0xFF)
  · rw [exec_getenabledpullups]
    exact readOnly_oneRead hr regGPPU id

/-- Settles O33: the byte received is the latch where one chip is reached, while READPIN's is the level of O25. -/
theorem getoutputstatesReturnsTheLatch : Obligations.GetoutputstatesReturnsTheLatch := by
  intro a b s hr
  obtain ⟨-, -, -, ⟨t, hexec, hread, hcaller⟩, -, -⟩ := bulkReadsReturnOneRegister a b s hr
  refine ⟨rfl, fun a' b' => ?_, ⟨t, ownRead s 0x0A, hexec, hread, hcaller, fun n c hsole => ?_,
    ownRead_of_noneReached 0x0A⟩, fun n c pin hsole hpin => ?_⟩
  · rw [exec_getoutputstates, exec_getoutputstates]
  · exact ownRead_of_isStorage hsole rfl
  · exact (readpinShowsTheLevel pin b a b s n c hr hsole hpin).1

/-- Settles O34: the write and the read of GPPU of O31 and O32 at the one chip reached. -/
theorem pullupsAreWrittenAndReadWhole : Obligations.PullupsAreWrittenAndReadWhole := by
  intro byte b s hr hs
  obtain ⟨-, -, -, -, -, t, hexec, hwrite, hcaller⟩ := bulkWritesStoreOneByte byte b s hr hs
  obtain ⟨-, -, -, -, -, u, hexec', hread, hcaller'⟩ := bulkReadsReturnOneRegister byte b s hr
  refine ⟨rfl, rfl, fun b' => ?_, fun a' b' => ?_, ⟨t, hexec, hwrite, hcaller, fun n c hsole => ?_⟩,
    u, ownRead s 0x06, hexec', hread, hcaller', fun n c hsole => ?_, ownRead_of_noneReached 0x06⟩
  · rw [exec_enablepullups, exec_enablepullups]
  · rw [exec_getenabledpullups, exec_getenabledpullups]
  · obtain ⟨honly, c', hsole', hregs⟩ := oneWrite_at_soleChip hwrite hsole rfl (by decide)
    exact ⟨c', honly, hsole'.there, hregs⟩
  · exact ownRead_of_isStorage hsole rfl

/-- Settles O35: SETPINMODES leaves the complement in IODIR of the one chip reached, which the engine then reads back
inverted by GETPINMODES and as it stands by READREGISTER. -/
theorem directionRoundTrips : Obligations.DirectionRoundTrips := by
  intro byte a b x s t n c hr hs hsole hexec
  obtain ⟨-, -, -, -, ⟨t', hexec', hwrite, -⟩, -⟩ := bulkWritesStoreOneByte byte b s hr hs
  obtain rfl : t' = t := Host.Outcome.next.inj (hexec'.symm.trans hexec)
  have hready : Ready t' := exec_ready hr hexec
  obtain ⟨-, c', hsole', hregs⟩ := oneWrite_at_soleChip hwrite hsole rfl (by decide)
  have hdir : ownRead t' 0x00 = byte ^^^ 0xFF := (ownRead_of_isStorage hsole' rfl).trans (hregs 0x00)
  constructor
  · obtain ⟨-, -, -, -, ⟨u, hget, -, hcaller⟩, -⟩ := bulkReadsReturnOneRegister a b t' hready
    rw [hdir, xor_cancel_right] at hcaller
    exact ⟨u, hget, hcaller⟩
  · obtain ⟨u, hget, -, hcaller⟩ := readOnly_oneRead hready 0x00 id
    rw [hdir] at hcaller
    exact ⟨u, hget, hcaller⟩

end Sys2Proof.Machine
end

section
/-! WRITEREGISTER and READREGISTER (43_primitives.md R130, R131): one transaction of the address the operation carries,
with no range check (log 16) and no inversion of the byte. -/
namespace Sys2Proof.Machine
open Sys2Proof.Safety

section Exec
variable (address data b : Byte) (s : State)

theorem exec_writeregister : exec (.writeregister address data) s = s.writeOnly address data := rfl

/-- The byte received is returned as it stands, and the field `b` is ignored. -/
theorem exec_readregister : exec (.readregister address b) s = s.readOnly address id := rfl

end Exec

/-- Settles O36: the operation is one write, with the address and the byte of its own fields. -/
theorem writeregisterSendsItsOperands : Obligations.WriteregisterSendsItsOperands := by
  intro address data s hr hs
  rw [exec_writeregister]
  exact writeOnly_oneWrite hr hs address data

/-- Settles O37: the operation is one read, whose result is the byte received seen through the identity. -/
theorem readregisterReturnsTheByte : Obligations.ReadregisterReturnsTheByte := by
  intro address b s hr
  rw [exec_readregister]
  exact readOnly_oneRead hr address id

end Sys2Proof.Machine
end

section
/-! Which instructions answer a next state (60_exceptions.md R140), and which are refused before BEGIN or under excluded
parameters (R147). -/
namespace Sys2Proof.Machine
open Sys2Proof.Safety

/-- R147 is the only reason for which an operation other than BEGIN, and no reserved code, would not answer a next
state: whatever its operands and its phase, the guard has nothing but a next state under it. -/
theorem exec_eq_whenBegun {i : Instr} (s : State) (hop : isOperation i = true) (hbegin : isBegin i = false)
    (hreserved : isReserved i = false) : ∃ t, exec i s = s.whenBegun (.next t) := by
  cases i with
  | reset a b => exact ⟨_, rfl⟩
  | readpin pin b =>
    cases hp : pinOk pin with
    | false => exact ⟨_, exec_readpin_bad b s hp⟩
    | true => exact ⟨_, exec_readpin_ok b s hp⟩
  | writepin pin state =>
    cases hp : pinOk pin with
    | false => exact ⟨_, exec_writepin_bad state hp⟩
    | true =>
      cases h : s.phase with
      | read0 => exact ⟨_, exec_writepin_read0 state hp h⟩
      | write0 r => exact ⟨_, exec_writepin_write0 state hp h⟩
      | read1 => exact ⟨_, exec_writepin_read1 state hp h⟩
      | write1 r => exact ⟨_, exec_writepin_write1 state hp h⟩
  | setpinmode pin mode =>
    cases hp : pinOk pin && modeOk s.params mode with
    | false => exact ⟨_, exec_setpinmode_bad hp⟩
    | true =>
      cases h : s.phase with
      | read0 => exact ⟨_, exec_setpinmode_read0 hp h⟩
      | write0 r => exact ⟨_, exec_setpinmode_write0 hp h⟩
      | read1 => exact ⟨_, exec_setpinmode_read1 hp h⟩
      | write1 q => exact ⟨_, exec_setpinmode_write1 hp h⟩
  | setoutputstates byte b => exact ⟨_, exec_setoutputstates b byte s⟩
  | getoutputstates a b => exact ⟨_, exec_getoutputstates a b s⟩
  | setpinmodes byte b => exact ⟨_, exec_setpinmodes b byte s⟩
  | getpinmodes a b => exact ⟨_, exec_getpinmodes a b s⟩
  | enablepullups byte b => exact ⟨_, exec_enablepullups b byte s⟩
  | getenabledpullups a b => exact ⟨_, exec_getenabledpullups a b s⟩
  | writeregister address data => exact ⟨_, exec_writeregister address data s⟩
  | readregister address b => exact ⟨_, exec_readregister address b s⟩
  | begin a b => exact nomatch hbegin
  | reservedD a b => exact nomatch hreserved
  | reservedE a b => exact nomatch hreserved
  | reservedF a b => exact nomatch hreserved
  | _ => exact nomatch hop

theorem exec_next_of_isBegin {i : Instr} {s : State} (hbegin : isBegin i = true) (hp : paramsOk s.params = true) :
    ∃ t, exec i s = .next t := by
  cases i with
  | begin a b => exact ⟨_, exec_begin hp a b⟩
  | _ => exact nomatch hbegin

/-- Settles O44: a frame and BEGIN need less than a ready state, and any other operation has its guard of R147 met. -/
theorem everyInstructionRuns : Obligations.EveryInstructionRuns := by
  intro i s hr hreserved
  cases hop : isOperation i with
  | false =>
    obtain ⟨r, hexec⟩ := exec_of_frame hop s
    exact ⟨_, hexec⟩
  | true =>
    cases hbegin : isBegin i with
    | true => exact exec_next_of_isBegin hbegin hr.params
    | false =>
      obtain ⟨t, hexec⟩ := exec_eq_whenBegun s hop hbegin hreserved
      exact ⟨t, hexec.trans (State.whenBegun_of_ready hr _)⟩

/-- While `begun` is false an operation other than BEGIN is refused (D9; log 6). -/
theorem State.whenBegun_of_not_begun {s : State} (hp : paramsOk s.params = true) (hbegun : s.engine.begun = false)
    (k : Host.Outcome State Fault Refusal) : s.whenBegun k = .refused .notBegun := by
  simp [State.whenBegun, hp, hbegun]

/-- Settles O46: every operation but BEGIN is under the guard of R147, and BEGIN asks for admitted parameters alone. -/
theorem refusedBeforeBegin : Obligations.RefusedBeforeBegin := by
  intro i s hp hbegun hop hreserved
  split
  · next hbegin => exact exec_next_of_isBegin hbegin hp
  · next hbegin =>
    obtain ⟨t, hexec⟩ := exec_eq_whenBegun s hop (Bool.eq_false_iff.mpr hbegin) hreserved
    exact hexec.trans (State.whenBegun_of_not_begun hp hbegun _)

/-- The parameters that R147 excludes are those that `paramsOk` rejects. -/
theorem paramsOk_eq_false_iff {p : Params} :
    paramsOk p = false ↔ p.modeInput = p.modeOutput ∨ p.modeInput = p.modeInputPullup ∨
      p.modeOutput = p.modeInputPullup ∨ (p.resetNdata ≠ 10 ∧ p.resetNdata ≠ 11) := by
  simp [paramsOk, imp_iff_not_or, or_assoc]

/-- Settles O48: the step looks at the parameters before it takes a turn. -/
theorem badConfigurationRefused : Obligations.BadConfigurationRefused := by
  intro s hbad
  exact if_neg (Bool.eq_false_iff.mp (paramsOk_eq_false_iff.mpr hbad))

end Sys2Proof.Machine
end

section
/-! A caller's turn that need not wait (60_exceptions.md R151): it takes the next word, or goes on with the operation in
flight. -/
namespace Sys2Proof.Machine
open Sys2Proof.Safety

/-- The turn of a caller with an operation in flight goes on with it. -/
theorem State.fetch_of_flight {s : State} {k : Nat} {c : Caller} {f : Flight} (hc : s.callers[k]? = some c)
    (hflight : c.flight = some f) (hfree : s.blocked k f.op = false) : s.fetch k = .run f.op s := by
  simp only [State.fetch, hc, hflight, hfree, Bool.false_eq_true, if_false]

/-- Accepting a word replaces one caller's record. -/
theorem State.accept_of_pending {s : State} {k : Nat} {c : Caller} {w : List Byte} {ws : List (List Byte)} (i : Instr)
    (hc : s.callers[k]? = some c) (hpending : c.pending = w :: ws) :
    s.accept k i = { s with
      callers := s.callers.set k { c with pending := ws, flight := some { op := i, phase := .read0 } } } := by
  simp [State.accept, List.modify_eq_set_getElem?, hc, hpending]

/-- Settles O49: the turn fetches the decoded instruction in the state that accepted its word. -/
theorem stepRunsDecodedInstruction : Obligations.StepRunsDecodedInstruction := by
  intro s k rest c w ws i hp hs hc hflight hpending hdecode hfree
  have hfetch := State.fetch_of_pending (s := { s with schedule := rest, active := k }) hc hflight hpending hdecode
    hfree
  rw [step_of_fetch_run hp hs hfetch]
  exact congrArg (exec i) (State.accept_of_pending i hc hpending)

/-- Settles O50. -/
theorem stepContinuesOperation : Obligations.StepContinuesOperation := by
  intro s k rest c f hp hs hc hflight hfree
  exact ⟨step_of_fetch_run hp hs
      (State.fetch_of_flight (s := { s with schedule := rest, active := k }) hc hflight hfree),
    State.phase_of_flight hc hflight⟩

end Sys2Proof.Machine
end

section
/-! Callers that share the latch of one chip without HARDEN_RMW (20_memory.md R48, 60_exceptions.md R152): what one turn
of WRITEPIN or SETOUTPUTSTATES leaves of the latch and of the callers, and the schedules that lose an update. -/
namespace Sys2Proof.Machine
open Sys2Proof.Safety

/-- Nobody is held back, and the engine reaches chip `n` alone, whose OLAT reads `latch`; these are the callers, and the
turns to come. -/
structure LatchAt (n : Nat) (latch : Byte) (cs : List Caller) (turns : List Turn) (s : State) : Prop where
  ready : Ready s
  sound : Sound s
  soft : s.params.hardenRmw = false
  sole : ∃ c, SoleChip s n c ∧ c.regs.read 0x0A = latch
  callers : s.callers = cs
  schedule : s.schedule = turns

/-- From `s` the outcome `m` is a next state with this latch, these callers and these turns to come, and no chip but
number `n` changed. -/
def LeadsTo (m : Host.Outcome State Fault Refusal) (s : State) (n : Nat) (latch : Byte) (cs : List Caller)
    (turns : List Turn) : Prop :=
  ∃ t, m = .next t ∧ OnlyChip n s t ∧ LatchAt n latch cs turns t

/-- Without HARDEN_RMW no turn must wait (R48). -/
theorem State.not_blocked_of_not_hardened {s : State} (h : s.params.hardenRmw = false) (k : Nat) (i : Instr) :
    s.blocked k i = false := by
  simp only [State.blocked, h, Bool.false_and]

theorem callers_eq_of_callerBecomes {g : Caller → Caller} {s t : State} {c : Caller} (h : CallerBecomes g s t)
    (hc : s.callers[s.active]? = some c) : t.callers = s.callers.set s.active (g c) := by
  refine List.ext_getElem? fun j => ?_
  by_cases hj : j = s.active
  · rw [hj, h.active c hc, List.getElem?_set_self (List.getElem?_eq_some_iff.mp hc).1]
  · rw [h.others j hj, List.getElem?_set_ne (Ne.symm hj)]

section Turn
variable {n k : Nat} {latch : Byte} {cs : List Caller} {turns rest : List Turn} {s : State} {c : Caller} {i : Instr}

/-! ### One transaction of an operation -/

theorem leadsTo_of_exec {t : State} {latch' : Byte} {g : Caller → Caller} (h : LatchAt n latch cs turns s)
    (hi : isOperation i = true) (hc : cs[s.active]? = some c) (hexec : exec i s = .next t) (hsetting : SameSetting s t)
    (hcaller : CallerBecomes g s t) (honly : OnlyChip n s t)
    (hsole : ∃ d, SoleChip t n d ∧ d.regs.read 0x0A = latch') :
    LeadsTo (exec i s) s n latch' (cs.set s.active (g c)) turns :=
  ⟨t, hexec, honly, exec_ready h.ready hexec, exec_sound hi h.sound hexec, hsetting.params ▸ h.soft, hsole,
    h.callers ▸ callers_eq_of_callerBecomes hcaller (h.callers ▸ hc), hsetting.schedule.trans h.schedule⟩

/-- The read of a pair on OLAT holds the latch, and leaves it. -/
theorem leadsTo_of_read (h : LatchAt n latch cs turns s) (hi : isOperation i = true) (hc : cs[s.active]? = some c)
    (hturn : ∃ t, exec i s = .next t ∧ OneRead 0x0A s t ∧ CallerBecomes (goingOn i (.write0 (ownRead s 0x0A))) s t) :
    LeadsTo (exec i s) s n latch (cs.set s.active (goingOn i (.write0 latch) c)) turns := by
  obtain ⟨t, hexec, hread, hcaller⟩ := hturn
  obtain ⟨d, hsole, hlatch⟩ := h.sole
  have hbyte : ownRead s 0x0A = latch := (ownRead_of_isStorage hsole rfl).trans hlatch
  rw [hbyte] at hcaller
  obtain ⟨honly, d', hsole', hanswered⟩ := soleChip_of_chipsBecome hsole (.inr rfl) hread.engine hread.chips
    fun _ => selectedAlike_of_answered
  exact leadsTo_of_exec h hi hc hexec hread.setting hcaller honly ⟨d', hsole', (hanswered.regs _).trans hlatch⟩

/-- A write to OLAT that completes leaves the byte written, whatever the latch was. -/
theorem leadsTo_of_write {v : Byte} (h : LatchAt n latch cs turns s) (hi : isOperation i = true)
    (hc : cs[s.active]? = some c)
    (hturn : ∃ t, exec i s = .next t ∧ OneWrite 0x0A v s t ∧ CallerBecomes (completedWith none) s t) :
    LeadsTo (exec i s) s n v (cs.set s.active (completedWith none c)) turns := by
  obtain ⟨t, hexec, hwrite, hcaller⟩ := hturn
  obtain ⟨d, hsole, -⟩ := h.sole
  obtain ⟨honly, d', hsole', hregs⟩ := oneWrite_at_soleChip hwrite hsole rfl (by decide)
  exact leadsTo_of_exec h hi hc hexec hwrite.setting hcaller honly ⟨d', hsole', hregs 0x0A⟩

/-! ### One turn of the schedule -/

/-- A turn that takes a word runs its instruction at phase 0. -/
theorem step_eq_exec_of_pending {w : List Byte} {ws : List (List Byte)} (h : LatchAt n latch cs (.caller k :: rest) s)
    (hc : cs[k]? = some c) (hflight : c.flight = none) (hpending : c.pending = w :: ws) (hdecode : decode w = .ok i) :
    ∃ u, step s = exec i u ∧ u.chips = s.chips ∧ u.active = k ∧ u.phase = .read0 ∧
      LatchAt n latch (cs.set k { c with pending := ws, flight := some { op := i, phase := .read0 } }) rest u := by
  obtain ⟨hready, hsound, hsoft, ⟨d, hsole, hlatch⟩, rfl, hschedule⟩ := h
  have hlt : k < s.callers.length := (List.getElem?_eq_some_iff.mp hc).1
  refine ⟨_, stepRunsDecodedInstruction s k rest c w ws i hready.params hschedule hc hflight hpending hdecode
      (State.not_blocked_of_not_hardened hsoft k i), rfl, rfl,
    State.phase_of_flight (f := { op := i, phase := .read0 }) (List.getElem?_set_self hlt) rfl,
    ⟨hready.params, hready.begun⟩, ⟨hsound.opcode, hsound.chips⟩, hsoft,
    ⟨d, ⟨hsole.there, hsole.reached, hsole.alone⟩, hlatch⟩, rfl, rfl⟩

/-- A turn that goes on with the operation in flight runs it at the phase it has reached. -/
theorem step_eq_exec_of_flight {f : Flight} (h : LatchAt n latch cs (.caller k :: rest) s) (hc : cs[k]? = some c)
    (hflight : c.flight = some f) :
    ∃ u, step s = exec f.op u ∧ u.chips = s.chips ∧ u.active = k ∧ u.phase = f.phase ∧ LatchAt n latch cs rest u := by
  obtain ⟨hready, hsound, hsoft, ⟨d, hsole, hlatch⟩, rfl, hschedule⟩ := h
  obtain ⟨hstep, hphase⟩ := stepContinuesOperation s k rest c f hready.params hschedule hc hflight
    (State.not_blocked_of_not_hardened hsoft k f.op)
  exact ⟨_, hstep, rfl, rfl, hphase, ⟨hready.params, hready.begun⟩, ⟨hsound.opcode, hsound.chips⟩, hsoft,
    ⟨d, ⟨hsole.there, hsole.reached, hsole.alone⟩, hlatch⟩, rfl, rfl⟩

theorem leadsTo_of_step_eq {u : State} (hstep : step s = exec i u) (hchips : u.chips = s.chips)
    (h : LeadsTo (exec i u) u n latch cs turns) : LeadsTo (step s) s n latch cs turns := by
  obtain ⟨t, hexec, honly, ht⟩ := h
  exact ⟨t, hstep.trans hexec, ⟨hchips ▸ honly.count, hchips ▸ honly.others⟩, ht⟩

/-- The first turn of WRITEPIN (41_pin_ops.md R102) holds the latch it found. -/
theorem writepin_readTurn {pin state : Byte} {ws : List (List Byte)} (h : LatchAt n latch cs (.caller k :: rest) s)
    (hc : cs[k]? = some c) (hflight : c.flight = none) (hpending : c.pending = encode (.writepin pin state) :: ws)
    (hpin : pin.toNat ≤ 7) :
    LeadsTo (step s) s n latch
      (cs.set k { c with pending := ws, flight := some { op := .writepin pin state, phase := .write0 latch } })
      rest := by
  obtain ⟨u, hstep, hchips, rfl, hphase, hu⟩ :=
    step_eq_exec_of_pending h hc hflight hpending (decode_encodeCommand 0x3 pin state)
  obtain ⟨-, hread, -, -⟩ := writepinReadsThenWrites pin state u hu.ready
  have hlead := leadsTo_of_read hu rfl (List.getElem?_set_self (List.getElem?_eq_some_iff.mp hc).1)
    (hread hpin (.inl hphase))
  rw [List.set_set] at hlead
  exact leadsTo_of_step_eq hstep hchips hlead

/-- The second turn of WRITEPIN writes the byte computed from the one it holds, whatever the latch is by then. -/
theorem writepin_writeTurn {pin state held : Byte} (h : LatchAt n latch cs (.caller k :: rest) s) (hc : cs[k]? = some c)
    (hflight : c.flight = some { op := .writepin pin state, phase := .write0 held }) (hpin : pin.toNat ≤ 7) :
    LeadsTo (step s) s n (putBit held pin (decide (state ≠ 0))) (cs.set k (completedWith none c)) rest := by
  obtain ⟨u, hstep, hchips, rfl, hphase, hu⟩ := step_eq_exec_of_flight h hc hflight
  obtain ⟨-, -, hwrite, -⟩ := writepinReadsThenWrites pin state u hu.ready
  exact leadsTo_of_step_eq hstep hchips (leadsTo_of_write hu rfl hc (hwrite held hpin (.inl hphase) hu.sound))

/-- The one turn of SETOUTPUTSTATES (42_bulk_ops.md R115) puts its byte in the latch. -/
theorem setoutputstates_turn {byte b : Byte} {ws : List (List Byte)} (h : LatchAt n latch cs (.caller k :: rest) s)
    (hc : cs[k]? = some c) (hflight : c.flight = none) (hpending : c.pending = encode (.setoutputstates byte b) :: ws) :
    LeadsTo (step s) s n byte (cs.set k (completedWith none { c with pending := ws })) rest := by
  obtain ⟨u, hstep, hchips, rfl, -, hu⟩ :=
    step_eq_exec_of_pending h hc hflight hpending (decode_encodeCommand 0x5 byte b)
  obtain ⟨-, -, -, hwrite, -, -⟩ := bulkWritesStoreOneByte byte b u hu.ready hu.sound
  have hlead := leadsTo_of_write hu rfl (List.getElem?_set_self (List.getElem?_eq_some_iff.mp hc).1) hwrite
  rw [List.set_set] at hlead
  exact leadsTo_of_step_eq hstep hchips hlead

/-! ### Several turns -/

theorem leadsTo_runSteps_zero (h : LatchAt n latch cs turns s) : LeadsTo (runSteps 0 s) s n latch cs turns :=
  ⟨s, rfl, ⟨rfl, fun _ _ _ _ hd hd' => Option.some.inj (hd.symm.trans hd') ▸ ⟨rfl, rfl, rfl, rfl, fun _ => rfl⟩⟩, h⟩

/-- A turn, and then the rest of the run. -/
theorem leadsTo_runSteps_succ {m : Nat} {latch' latch'' : Byte} {cs' cs'' : List Caller} {turns' turns'' : List Turn}
    (hstep : LeadsTo (step s) s n latch' cs' turns')
    (hrest : ∀ t, LatchAt n latch' cs' turns' t → LeadsTo (runSteps m t) t n latch'' cs'' turns'') :
    LeadsTo (runSteps (m + 1) s) s n latch'' cs'' turns'' := by
  obtain ⟨t, hnext, honly, ht⟩ := hstep
  obtain ⟨u, hrun, honly', hu⟩ := hrest t ht
  exact ⟨u, by simp only [runSteps, hnext, hrun], onlyChip_trans honly honly', hu⟩

end Turn

/-! ### Interleaved callers -/

/-- Both reads come before both writes, so that the second write is computed from the latch before the first. -/
theorem interleavedWritepins_lead {n : Nat} {latch : Byte} {x y : Caller} {s : State} {p a q b : Byte}
    (h : LatchAt n latch [x, y] [.caller 0, .caller 1, .caller 0, .caller 1] s) (hx : x.flight = none)
    (hy : y.flight = none) (hxw : x.pending = [encode (.writepin p a)]) (hyw : y.pending = [encode (.writepin q b)])
    (hp : p.toNat ≤ 7) (hq : q.toNat ≤ 7) :
    LeadsTo (runSteps 4 s) s n (putBit latch q (decide (b ≠ 0)))
      [completedWith none { x with pending := [] }, completedWith none { y with pending := [] }] [] :=
  leadsTo_runSteps_succ (writepin_readTurn h rfl hx hxw hp) fun _ h1 =>
    leadsTo_runSteps_succ (writepin_readTurn h1 rfl hy hyw hq) fun _ h2 =>
      leadsTo_runSteps_succ (writepin_writeTurn h2 rfl rfl hp) fun _ h3 =>
        leadsTo_runSteps_succ (writepin_writeTurn h3 rfl rfl hq) fun _ h4 => leadsTo_runSteps_zero h4

/-- The bulk write falls between the read and the write of the pair. -/
theorem bulkWriteInTheGap_leads {n : Nat} {latch : Byte} {x y : Caller} {s : State} {p a byte b : Byte}
    (h : LatchAt n latch [x, y] [.caller 0, .caller 1, .caller 0] s) (hx : x.flight = none) (hy : y.flight = none)
    (hxw : x.pending = [encode (.writepin p a)]) (hyw : y.pending = [encode (.setoutputstates byte b)])
    (hp : p.toNat ≤ 7) :
    LeadsTo (runSteps 3 s) s n (putBit latch p (decide (a ≠ 0)))
      [completedWith none { x with pending := [] }, completedWith none { y with pending := [] }] [] :=
  leadsTo_runSteps_succ (writepin_readTurn h rfl hx hxw hp) fun _ h1 =>
    leadsTo_runSteps_succ (setoutputstates_turn h1 rfl hy hyw) fun _ h2 =>
      leadsTo_runSteps_succ (writepin_writeTurn h2 rfl rfl hp) fun _ h3 => leadsTo_runSteps_zero h3

/-- Settles O53: the run of `interleavedWritepins_lead` from the latch of the one chip reached. -/
theorem lostUpdate : Obligations.LostUpdate := by
  intro s n c x y p a q b hr hs hsole hsoft hp hq hcallers hx hy hxw hyw hschedule
  obtain ⟨t, hrun, honly, ht⟩ := interleavedWritepins_lead
    ⟨hr, hs, hsoft, ⟨c, hsole, rfl⟩, hcallers, hschedule⟩ hx hy hxw hyw hp hq
  obtain ⟨c', hsole', hlatch⟩ := ht.sole
  refine ⟨t, c', hrun, honly, hsole'.there, hlatch, ?_⟩
  rw [ht.callers, hx, hy]
  rfl

/-- Settles O54: the run of `bulkWriteInTheGap_leads` from the latch of the one chip reached. -/
theorem bulkWriteInTheGapIsLost : Obligations.BulkWriteInTheGapIsLost := by
  intro s n c x y p a byte b hr hs hsole hsoft hp hcallers hx hy hxw hyw hschedule
  obtain ⟨t, hrun, honly, ht⟩ := bulkWriteInTheGap_leads
    ⟨hr, hs, hsoft, ⟨c, hsole, rfl⟩, hcallers, hschedule⟩ hx hy hxw hyw hp
  obtain ⟨c', hsole', hlatch⟩ := ht.sole
  exact ⟨t, c', hrun, honly, hsole'.there, hlatch⟩

end Sys2Proof.Machine
end

section
/-! Turns that pass (70_reset_and_hazards.md R168): with no turn left, or the turn of a caller with nothing to run. -/
namespace Sys2Proof.Machine

/-- A caller that is not there, or that has nothing in flight and nothing at its port, has nothing to run. -/
theorem State.fetch_idle_of_nothingToRun {k : Nat} {s : State}
    (h : ∀ c, s.callers[k]? = some c → c.flight = none ∧ c.pending = []) : s.fetch k = .idle := by
  cases hc : s.callers[k]? with
  | none => simp only [State.fetch, hc]
  | some c =>
    obtain ⟨hflight, hpending⟩ := h c hc
    simp only [State.fetch, hc, hflight, hpending]

theorem step_of_noTurn {s : State} (hp : paramsOk s.params = true) (hs : s.schedule = []) : step s = .next s := by
  simp only [step, hp, hs, if_true]

/-- Settles O57: a caller's turn passes because it fetches nothing. -/
theorem idleTurnsPass : Obligations.IdleTurnsPass := by
  intro s hp
  refine ⟨step_of_noTurn hp, fun k rest hs hnothing => ?_⟩
  have hidle : State.fetch k { s with schedule := rest, active := k } = .idle :=
    State.fetch_idle_of_nothingToRun hnothing
  exact step_of_fetch_idle hp hs hidle

end Sys2Proof.Machine
end
